-- ==== Sys2Proof/Word.lean ====
section
/-!
DEFINITION. The word types of the block, with the spec's bit numbering (00_scope.md R10, R11): bit 0 is the least
significant bit. These three widths are fixed, not parameters (00_scope.md, end of section 4).
-/

namespace Sys2Proof

/-- One byte: a device register, an address byte or a transferred byte (00_scope.md section 4). -/
abbrev Byte := BitVec 8

/-- A 16-bit value: a command word (30_encoding.md R67) or a sample (00_scope.md section 4). -/
abbrev Word := BitVec 16

/-- A device register address, 6 bits, `0x00` to `0x3F` (20_memory.md R43, 90_conflicts.md C1). -/
abbrev Addr := BitVec 6

end Sys2Proof
end

