-- ==== Sys2Proof/Config.lean ====
section
/-!
DEFINITION. The configuration record of 00_scope.md R8, its constraints (R9) and its defaults, and the one free value
of the model: what the transport answers when nothing has been lined up for it (00_scope.md R13, 20_memory.md R61).
-/

namespace Sys2Proof

/-- `CTRL2_PROFILE` (R8): which revision of the control-register-2 encoder the block implements, exactly one. -/
inductive Ctrl2Profile where
  /-- 12-bit revision: the base byte is `0x00` and there is no alignment operand. -/
  | p12
  /-- 16-bit revision: the base byte has the alignment bit set and there is no alignment operand. -/
  | p16
  /-- The most general revision: an explicit alignment operand. -/
  | palign
deriving DecidableEq, Repr

/-- `ALIGN_BIT` (R8, R9 (d)): the three positions the source's non-overlap invariant leaves. -/
inductive AlignBit where
  | bit0
  | bit4
  | bit5
deriving DecidableEq, Repr

/-- The configuration record (R8): fixed for the whole life of the block. -/
structure Config where
  /-- `CTRL2_PROFILE`. -/
  profile : Ctrl2Profile
  /-- `ALIGN_BIT`. -/
  alignBit : AlignBit
  /-- `FILLER`: the byte sent by a transfer whose purpose is to capture a byte. -/
  filler : Byte
  addrWhoAmI : Addr
  addrCtrl1 : Addr
  addrCtrl2 : Addr
  addrCtrl3 : Addr
  addrHpReset : Addr
  addrStatus : Addr
  addrOutLX : Addr
  addrOutHX : Addr
  addrOutLY : Addr
  addrOutHY : Addr
  addrOutLZ : Addr
  addrOutHZ : Addr
deriving DecidableEq, Repr

/-- The defaults of R8: the build `LIS3LV02-SWSPI-CODEC/PALIGN` (70_reset_and_hazards.md R145). Every number here is
the spec's own default (92_eei_decisions.md D1 to D4), not the source's. -/
def Config.standard : Config where
  profile := .palign
  alignBit := .bit0
  filler := 0x00#8
  addrWhoAmI := 0x0F#6
  addrCtrl1 := 0x20#6
  addrCtrl2 := 0x21#6
  addrCtrl3 := 0x22#6
  addrHpReset := 0x23#6
  addrStatus := 0x27#6
  addrOutLX := 0x28#6
  addrOutHX := 0x29#6
  addrOutLY := 0x2A#6
  addrOutHY := 0x2B#6
  addrOutLZ := 0x2C#6
  addrOutHZ := 0x2D#6

/-- `ID_EXPECTED` (R8): fixed by the source, not a parameter. -/
def idExpected : Byte := 0x3A#8

/-- The twelve register addresses of a configuration, in the order of R8. -/
def Config.addresses (c : Config) : List Addr :=
  [c.addrWhoAmI, c.addrCtrl1, c.addrCtrl2, c.addrCtrl3, c.addrHpReset, c.addrStatus,
   c.addrOutLX, c.addrOutHX, c.addrOutLY, c.addrOutHY, c.addrOutLZ, c.addrOutHZ]

/-- The constraints of R9 that the types leave: (b) each high output byte lies one above its low byte, as numbers, so
the low address is at most `0x3E`; (c) the twelve addresses are pairwise distinct. -/
abbrev Config.Valid (c : Config) : Prop :=
  c.addrOutHX.toNat = c.addrOutLX.toNat + 1 ∧
  c.addrOutHY.toNat = c.addrOutLY.toNat + 1 ∧
  c.addrOutHZ.toNat = c.addrOutLZ.toNat + 1 ∧
  c.addresses.Nodup

/-- What the transport does with one outstanding call (00_scope.md R13): it returns, with a byte, or it has not
returned yet. The byte of a returned `SEL` or `DESEL` reaches nothing (10_state.md R17: they return nothing). A call
that never returns (70_reset_and_hazards.md R149) is a transport that answers `pending` for ever. -/
inductive Answer where
  | pending
  | returned (i : Byte)
deriving DecidableEq, Repr, Inhabited

/-- FREE VALUE. The answer of the transport to the n-th attempt for which no answer was lined up: any byte, or not yet
(20_memory.md R61, R51; 93_implementation_defined.md U4, U5, U11). It has no body, so nothing can be proved of it. -/
opaque Config.transportAnswer : Nat → Answer

end Sys2Proof
end

