-- ==== Sys2Proof/Syntax.lean ====
section
/-!
DEFINITION. The operand enumerations of 30_encoding.md R69 and the eleven operations of R72. A member outside an
enumeration cannot be written: `AXIS = 3` (R70) has no term here, the decoder refuses the words that carry it.
-/

namespace Sys2Proof

/-- `PWR` (R69): power off or on. -/
inductive Pwr where
  | off
  | on
deriving DecidableEq, Repr

/-- `RATE` (R69): one of four output data rates. -/
inductive Rate where
  | hz40
  | hz160
  | hz640
  | hz2560
deriving DecidableEq, Repr

/-- `FS` (R69): full-scale range. -/
inductive Fs where
  | g2
  | g6
deriving DecidableEq, Repr

/-- `BDU` (R69): update mode, continuous or latched. -/
inductive Bdu where
  | cont
  | latch
deriving DecidableEq, Repr

/-- `IEN` (R69): the accelerometer's interrupt, disabled or enabled. -/
inductive Ien where
  | intOff
  | intOn
deriving DecidableEq, Repr

/-- `DRDY` (R69): the accelerometer's data-ready signal, disabled or enabled. -/
inductive Drdy where
  | drdyOff
  | drdyOn
deriving DecidableEq, Repr

/-- `SIM` (R69): SPI wire mode, 4-wire or 3-wire. -/
inductive Sim where
  | wire4
  | wire3
deriving DecidableEq, Repr

/-- `ALIGN` (R69): data alignment, 12-bit right-justified or 16-bit left-justified. Under the profiles `P12` and `P16`
the operand is absent and is written `r12` (40_codec_functions.md R93). -/
inductive Align where
  | r12
  | l16
deriving DecidableEq, Repr

/-- `ECK` (R69): filter clock source, internal or external. -/
inductive Eck where
  | ckInt
  | ckExt
deriving DecidableEq, Repr

/-- `HPDD` (R69): direction-detection filter, disabled or enabled. -/
inductive Hpdd where
  | ddOff
  | ddOn
deriving DecidableEq, Repr

/-- `HPFF` (R69): free-fall filter, disabled or enabled. -/
inductive Hpff where
  | ffOff
  | ffOn
deriving DecidableEq, Repr

/-- `FDS` (R69): data filter, disabled or enabled. -/
inductive Fds where
  | fdsOff
  | fdsOn
deriving DecidableEq, Repr

/-- `CFS` (R69): filter cutoff step. -/
inductive Cfs where
  | hpc512
  | hpc1024
  | hpc2048
  | hpc4096
deriving DecidableEq, Repr

/-- `AXIS` (R69): the three axes. The field value 3 names no axis (R70). -/
inductive Axis where
  | x
  | y
  | z
deriving DecidableEq, Repr

/-- The eleven operations (R72), one constructor for each row of the opcode table, operands in assembly order. -/
inductive Instr where
  /-- `GETID`: identity read (42_identity_status.md R111). -/
  | getid
  /-- `BEGIN`: bring-up check (42_identity_status.md R112). -/
  | beginCheck
  /-- `SETCTRL1 PWR, RATE` (41_config.md R108). -/
  | setctrl1 (pwr : Pwr) (rate : Rate)
  /-- `SETCTRL2 FS, BDU, IEN, DRDY, SIM[, ALIGN]` (41_config.md R109). -/
  | setctrl2 (fs : Fs) (bdu : Bdu) (ien : Ien) (drdy : Drdy) (sim : Sim) (align : Align)
  /-- `SETCTRL3 ECK, HPDD, HPFF, FDS, CFS` (41_config.md R110). -/
  | setctrl3 (eck : Eck) (hpdd : Hpdd) (hpff : Hpff) (fds : Fds) (cfs : Cfs)
  /-- `RSTFILT`: filter reset (42_identity_status.md R114). -/
  | rstfilt
  /-- `RDSTATUS`: status read (42_identity_status.md R113). -/
  | rdstatus
  /-- `RDH AXIS`: high output byte (43_sample.md R116). -/
  | rdh (axis : Axis)
  /-- `RDL AXIS`: low output byte (43_sample.md R117). -/
  | rdl (axis : Axis)
  /-- `RDD AXIS`: sample by the discrete protocol (43_sample.md R118). -/
  | rdd (axis : Axis)
  /-- `RDB AXIS`: sample by the burst protocol (43_sample.md R119). -/
  | rdb (axis : Axis)
deriving DecidableEq, Repr

end Sys2Proof
end

