-- ==== Sys2Proof/Machine/Operands.lean ====
section
/-!
DEFINITION. Operand fields (30_encoding.md R69, R71): the unsigned field value of each member of each enumeration, and
the member each field value names, used as they stand; and the addresses an `AXIS` operand selects (43_sample.md R115).
-/

namespace Sys2Proof

def Pwr.code : Pwr → BitVec 1
  | .off => 0#1
  | .on => 1#1

def Pwr.ofCode (v : BitVec 1) : Pwr := if v = 1#1 then .on else .off

def Rate.code : Rate → BitVec 2
  | .hz40 => 0#2
  | .hz160 => 1#2
  | .hz640 => 2#2
  | .hz2560 => 3#2

def Rate.ofCode (v : BitVec 2) : Rate :=
  if v = 0#2 then .hz40 else if v = 1#2 then .hz160 else if v = 2#2 then .hz640 else .hz2560

def Fs.code : Fs → BitVec 1
  | .g2 => 0#1
  | .g6 => 1#1

def Fs.ofCode (v : BitVec 1) : Fs := if v = 1#1 then .g6 else .g2

def Bdu.code : Bdu → BitVec 1
  | .cont => 0#1
  | .latch => 1#1

def Bdu.ofCode (v : BitVec 1) : Bdu := if v = 1#1 then .latch else .cont

def Ien.code : Ien → BitVec 1
  | .intOff => 0#1
  | .intOn => 1#1

def Ien.ofCode (v : BitVec 1) : Ien := if v = 1#1 then .intOn else .intOff

def Drdy.code : Drdy → BitVec 1
  | .drdyOff => 0#1
  | .drdyOn => 1#1

def Drdy.ofCode (v : BitVec 1) : Drdy := if v = 1#1 then .drdyOn else .drdyOff

def Sim.code : Sim → BitVec 1
  | .wire4 => 0#1
  | .wire3 => 1#1

def Sim.ofCode (v : BitVec 1) : Sim := if v = 1#1 then .wire3 else .wire4

def Align.code : Align → BitVec 1
  | .r12 => 0#1
  | .l16 => 1#1

def Align.ofCode (v : BitVec 1) : Align := if v = 1#1 then .l16 else .r12

def Eck.code : Eck → BitVec 1
  | .ckInt => 0#1
  | .ckExt => 1#1

def Eck.ofCode (v : BitVec 1) : Eck := if v = 1#1 then .ckExt else .ckInt

def Hpdd.code : Hpdd → BitVec 1
  | .ddOff => 0#1
  | .ddOn => 1#1

def Hpdd.ofCode (v : BitVec 1) : Hpdd := if v = 1#1 then .ddOn else .ddOff

def Hpff.code : Hpff → BitVec 1
  | .ffOff => 0#1
  | .ffOn => 1#1

def Hpff.ofCode (v : BitVec 1) : Hpff := if v = 1#1 then .ffOn else .ffOff

def Fds.code : Fds → BitVec 1
  | .fdsOff => 0#1
  | .fdsOn => 1#1

def Fds.ofCode (v : BitVec 1) : Fds := if v = 1#1 then .fdsOn else .fdsOff

def Cfs.code : Cfs → BitVec 2
  | .hpc512 => 0#2
  | .hpc1024 => 1#2
  | .hpc2048 => 2#2
  | .hpc4096 => 3#2

def Cfs.ofCode (v : BitVec 2) : Cfs :=
  if v = 0#2 then .hpc512 else if v = 1#2 then .hpc1024 else if v = 2#2 then .hpc2048 else .hpc4096

def Axis.code : Axis → BitVec 2
  | .x => 0#2
  | .y => 1#2
  | .z => 2#2

/-- `AXIS = 3` names no axis (R70). -/
def Axis.ofCode (v : BitVec 2) : Option Axis :=
  if v = 0#2 then some .x else if v = 1#2 then some .y else if v = 2#2 then some .z else none

/-- `ADDR_OUT_L[axis]` (R115). -/
def Config.outL (c : Config) : Axis → Addr
  | .x => c.addrOutLX
  | .y => c.addrOutLY
  | .z => c.addrOutLZ

/-- `ADDR_OUT_H[axis]` (R115). -/
def Config.outH (c : Config) : Axis → Addr
  | .x => c.addrOutHX
  | .y => c.addrOutHY
  | .z => c.addrOutHZ

/-- The bit position that `ALIGN_BIT` names (00_scope.md R8). -/
def AlignBit.position : AlignBit → Nat
  | .bit0 => 0
  | .bit4 => 4
  | .bit5 => 5

/-- The output data rate in Hz (R69). -/
def Rate.hz : Rate → Nat
  | .hz40 => 40
  | .hz160 => 160
  | .hz640 => 640
  | .hz2560 => 2560

/-- The HPC divisor of a cutoff step (R69, 40_codec_functions.md R95). -/
def Cfs.hpc : Cfs → Nat
  | .hpc512 => 512
  | .hpc1024 => 1024
  | .hpc2048 => 2048
  | .hpc4096 => 4096

/-- The filter cutoff in Hz, `(0.318 / HPC) * (ODR / 2)` (40_codec_functions.md R95). Informative: no rule of the block
depends on it. -/
def cutoffHz (r : Rate) (c : Cfs) : Rat := (318 / 1000 / (c.hpc : Rat)) * ((r.hz : Rat) / 2)

end Sys2Proof
end

