-- ==== Sys2Proof/Machine/Codec.lean ====
section
/-!
DEFINITION. The codec functions of 40_codec_functions.md: pure functions of their arguments and of the configuration
(R106). The address composer, the three control-register encoders and their inverses, and the two sample decoders.
-/

namespace Sys2Proof

/-- `addr_byte(a, rd, inc) = rd ++ inc ++ a` (R87; bit positions 30_encoding.md R80). -/
def addrByte (a : Addr) (rd inc : BitVec 1) : Byte :=
  (rd.setWidth 8 <<< 7) ||| (inc.setWidth 8 <<< 6) ||| a.setWidth 8

/-- `enc_ctrl1` (R90): the base byte `0x07` enables the three axes. -/
def encCtrl1 (pwr : Pwr) (rate : Rate) : Byte :=
  0x07#8 ||| (pwr.code.setWidth 8 <<< 6) ||| (rate.code.setWidth 8 <<< 4)

/-- `base2` (R93): the base byte of control register 2, by profile. -/
def base2 (c : Config) (align : Align) : Byte :=
  match c.profile with
  | .p12 => 0x00#8
  | .p16 => 1#8 <<< c.alignBit.position
  | .palign => align.code.setWidth 8 <<< c.alignBit.position

/-- `enc_ctrl2` (R92): each option sets exactly one bit over the base byte. -/
def encCtrl2 (c : Config) (fs : Fs) (bdu : Bdu) (ien : Ien) (drdy : Drdy) (sim : Sim) (align : Align) : Byte :=
  base2 c align ||| (fs.code.setWidth 8 <<< 7) ||| (bdu.code.setWidth 8 <<< 6) ||| (ien.code.setWidth 8 <<< 3) |||
    (drdy.code.setWidth 8 <<< 2) ||| (sim.code.setWidth 8 <<< 1)

/-- `enc_ctrl3` (R94): the base byte is `0x00`. -/
def encCtrl3 (eck : Eck) (hpdd : Hpdd) (hpff : Hpff) (fds : Fds) (cfs : Cfs) : Byte :=
  (eck.code.setWidth 8 <<< 7) ||| (hpdd.code.setWidth 8 <<< 6) ||| (hpff.code.setWidth 8 <<< 5) |||
    (fds.code.setWidth 8 <<< 4) ||| cfs.code.setWidth 8

/-- `dec_ctrl1` (R97), for proofs and test benches only: the block never reads a control register. -/
def decCtrl1 (v : Byte) : Option (Pwr × Rate) :=
  if v.extractLsb' 7 1 = 0#1 ∧ v.extractLsb' 3 1 = 0#1 ∧ v.extractLsb' 0 3 = 7#3 then
    some (Pwr.ofCode (v.extractLsb' 6 1), Rate.ofCode (v.extractLsb' 4 2))
  else none

/-- The bits of control register 2 that no setter of the build sets: the two of bits 5, 4, 0 that are not `ALIGN_BIT`
(R98). -/
def unusedCtrl2 (b : AlignBit) : Byte := 0x31#8 &&& ~~~(1#8 <<< b.position)

/-- The domain of `dec_ctrl2` in a build (R97). -/
def ctrl2Domain (c : Config) (v : Byte) : Bool :=
  v &&& unusedCtrl2 c.alignBit == 0#8 &&
    match c.profile with
    | .palign => true
    | .p12 => !v.getLsbD c.alignBit.position
    | .p16 => v.getLsbD c.alignBit.position

/-- `dec_ctrl2` (R97). Under `P12` and `P16` the sixth operand is absent and written `r12` (R93): DEDUCED,
notes/assumptions/9.md. -/
def decCtrl2 (c : Config) (v : Byte) : Option (Fs × Bdu × Ien × Drdy × Sim × Align) :=
  if ctrl2Domain c v then
    some (Fs.ofCode (v.extractLsb' 7 1), Bdu.ofCode (v.extractLsb' 6 1), Ien.ofCode (v.extractLsb' 3 1),
      Drdy.ofCode (v.extractLsb' 2 1), Sim.ofCode (v.extractLsb' 1 1),
      match c.profile with
      | .palign => Align.ofCode (v.extractLsb' c.alignBit.position 1)
      | .p12 => .r12
      | .p16 => .r12)
  else none

/-- `dec_ctrl3` (R97). -/
def decCtrl3 (v : Byte) : Option (Eck × Hpdd × Hpff × Fds × Cfs) :=
  if v.extractLsb' 2 2 = 0#2 then
    some (Eck.ofCode (v.extractLsb' 7 1), Hpdd.ofCode (v.extractLsb' 6 1), Hpff.ofCode (v.extractLsb' 5 1),
      Fds.ofCode (v.extractLsb' 4 1), Cfs.ofCode (v.extractLsb' 0 2))
  else none

/-- `dec_discrete(high, low)` (R99): the high byte sign-extended, the low byte zero-extended, within 16 bits. -/
def decDiscrete (high low : Byte) : Word := (high.signExtend 16 <<< 8) ||| low.setWidth 16

/-- `dec_burst(low, high)` (R100): arguments in capture order. -/
def decBurst (low high : Byte) : Word := low.setWidth 16 ||| (high.setWidth 16 <<< 8)

/-- A raw byte as a result: zero-extended (10_state.md R21). -/
def rawByte (b : Byte) : Word := b.setWidth 16

end Sys2Proof
end

