-- ==== Sys2Proof/WellFormed.lean ====
section
/-!
DEFINITION. Which instructions a build has (30_encoding.md R74): under `P12` and `P16` the alignment operand of
`SETCTRL2` is absent and is written `r12`. Every other operand tuple is an instruction of every build (R69, R91).
-/

namespace Sys2Proof

/-- An alignment operand that the profile admits (R74, 40_codec_functions.md R93). -/
def Ctrl2Profile.admits (p : Ctrl2Profile) (a : Align) : Bool :=
  match p with
  | .palign => true
  | .p12 => a == .r12
  | .p16 => a == .r12

/-- Well-formed in a build: the one check the operand types leave is the alignment operand of `SETCTRL2`. -/
def Instr.wf (p : Ctrl2Profile) (i : Instr) : Bool :=
  match i with
  | .setctrl2 _ _ _ _ _ align => p.admits align
  | .getid => true
  | .beginCheck => true
  | .setctrl1 _ _ => true
  | .setctrl3 _ _ _ _ _ => true
  | .rstfilt => true
  | .rdstatus => true
  | .rdh _ => true
  | .rdl _ => true
  | .rdd _ => true
  | .rdb _ => true

end Sys2Proof
end

