-- ==== Sys2Proof/Decode.lean ====
section
/-!
DEFINITION. The decoder of command words, total on 16 bits (30_encoding.md R67, R72 to R79), and the encoder written
from the same tables (R84). A word that names no operation is refused with exactly one cause (60_exceptions.md R122).
-/

namespace Sys2Proof

/-- The causes of refusal (60_exceptions.md R122). -/
inductive RefuseCause where
  /-- `OP` is `0x0` or `0xC` to `0xF`. -/
  | badOp
  /-- `OP` is valid and a reserved bit is 1. -/
  | badReserved
  /-- A sample read with `AXIS = 3`. -/
  | badAxis
deriving DecidableEq, Repr

/-- What the decoder makes of a word: one operation, or one cause of refusal (R75). -/
inductive Decoded where
  | instr (i : Instr)
  | refused (c : RefuseCause)
deriving DecidableEq, Repr

/-- The code that `ERRC` records (R122). -/
def RefuseCause.code : RefuseCause → BitVec 2
  | .badOp => 1#2
  | .badReserved => 2#2
  | .badAxis => 3#2

/-- `OP`, bits 15:12 of a word (R67). -/
def opField (w : Word) : BitVec 4 := w.extractLsb' 12 4

/-- The bits of `w[11:0]` that must be 0 for a given `OP` (R75); all of them where `OP` names no operation. -/
def reservedMask (p : Ctrl2Profile) (op : BitVec 4) : BitVec 12 :=
  match op with
  | 0x3#4 => 0xFF8#12
  | 0x4#4 =>
    match p with
    | .palign => 0xFC0#12
    | .p12 => 0xFC1#12
    | .p16 => 0xFC1#12
  | 0x5#4 => 0xFC0#12
  | 0x8#4 => 0xFFC#12
  | 0x9#4 => 0xFFC#12
  | 0xA#4 => 0xFFC#12
  | 0xB#4 => 0xFFC#12
  | _ => 0xFFF#12

/-- The operation that `OP` and `ARG` name once the reserved bits are 0 (R72, R73), `none` where `AXIS = 3` (R70) or
`OP` names no operation (R76). -/
def readOperands (op : BitVec 4) (w : Word) : Option Instr :=
  match op with
  | 0x1#4 => some .getid
  | 0x2#4 => some .beginCheck
  | 0x3#4 => some (.setctrl1 (Pwr.ofCode (w.extractLsb' 2 1)) (Rate.ofCode (w.extractLsb' 0 2)))
  | 0x4#4 => some (.setctrl2 (Fs.ofCode (w.extractLsb' 5 1)) (Bdu.ofCode (w.extractLsb' 4 1))
      (Ien.ofCode (w.extractLsb' 3 1)) (Drdy.ofCode (w.extractLsb' 2 1)) (Sim.ofCode (w.extractLsb' 1 1))
      (Align.ofCode (w.extractLsb' 0 1)))
  | 0x5#4 => some (.setctrl3 (Eck.ofCode (w.extractLsb' 5 1)) (Hpdd.ofCode (w.extractLsb' 4 1))
      (Hpff.ofCode (w.extractLsb' 3 1)) (Fds.ofCode (w.extractLsb' 2 1)) (Cfs.ofCode (w.extractLsb' 0 2)))
  | 0x6#4 => some .rstfilt
  | 0x7#4 => some .rdstatus
  | 0x8#4 => (Axis.ofCode (w.extractLsb' 0 2)).map .rdh
  | 0x9#4 => (Axis.ofCode (w.extractLsb' 0 2)).map .rdl
  | 0xA#4 => (Axis.ofCode (w.extractLsb' 0 2)).map .rdd
  | 0xB#4 => (Axis.ofCode (w.extractLsb' 0 2)).map .rdb
  | _ => none

/-- The decoder of a build, which depends on its profile alone (R79): the checks of `refuse_code`, in its order (R75, 60_exceptions.md R125). -/
def decode (p : Ctrl2Profile) (w : Word) : Decoded :=
  if opField w = 0x0#4 ∨ 0xC#4 ≤ opField w then .refused .badOp
  else if w.extractLsb' 0 12 &&& reservedMask p (opField w) ≠ 0#12 then .refused .badReserved
  else
    match readOperands (opField w) w with
    | some i => .instr i
    | none => .refused .badAxis

/-- `refuse_code(w)` (R75): 0 exactly when the word names an operation. -/
def refuseCode (p : Ctrl2Profile) (w : Word) : BitVec 2 :=
  match decode p w with
  | .instr _ => 0#2
  | .refused cause => cause.code

/-- `OP` of an operation (R72). -/
def Instr.op : Instr → BitVec 4
  | .getid => 0x1#4
  | .beginCheck => 0x2#4
  | .setctrl1 _ _ => 0x3#4
  | .setctrl2 _ _ _ _ _ _ => 0x4#4
  | .setctrl3 _ _ _ _ _ => 0x5#4
  | .rstfilt => 0x6#4
  | .rdstatus => 0x7#4
  | .rdh _ => 0x8#4
  | .rdl _ => 0x9#4
  | .rdd _ => 0xA#4
  | .rdb _ => 0xB#4

/-- `ARG` of an operation, every reserved bit 0 (R73, R84). -/
def Instr.arg : Instr → Byte
  | .getid => 0x00#8
  | .beginCheck => 0x00#8
  | .setctrl1 pwr rate => 0#5 ++ pwr.code ++ rate.code
  | .setctrl2 fs bdu ien drdy sim align =>
    0#2 ++ fs.code ++ bdu.code ++ ien.code ++ drdy.code ++ sim.code ++ align.code
  | .setctrl3 eck hpdd hpff fds cfs => 0#2 ++ eck.code ++ hpdd.code ++ hpff.code ++ fds.code ++ cfs.code
  | .rstfilt => 0x00#8
  | .rdstatus => 0x00#8
  | .rdh axis => 0#6 ++ axis.code
  | .rdl axis => 0#6 ++ axis.code
  | .rdd axis => 0#6 ++ axis.code
  | .rdb axis => 0#6 ++ axis.code

/-- The word of an operation: `OP`, four zero bits of `Z`, `ARG` (R67, R84). -/
def encode (i : Instr) : Word := i.op ++ 0#4 ++ i.arg

/-- The command word that stands for the low `nbits` bits of `w`, every higher bit 0. A command word is one 16-bit value
offered on a port (R67): it lies in no memory and has no byte order (20_memory.md R54, R64). -/
def tableWord (nbits w : Nat) : Word := BitVec.ofNat 16 (w % 2 ^ nbits)

/-- The operation that the decoder of the default build reads from a table word, `none` where it refuses. -/
def decodeTableWord (nbits w : Nat) : Option Instr :=
  match decode Config.standard.profile (tableWord nbits w) with
  | .instr i => some i
  | .refused _ => none

end Sys2Proof
end

