-- ==== Sys2Proof/Machine/State.lean ====
section
/-!
DEFINITION. The state of the machine as plain data: the block's registers and flags (10_state.md R15 to R31, R41), and
the model's own fields for what stands around the block: the configuration record, the host's events in the order the
host makes them, the transport, and the observation of the run (00_scope.md R13, R14).
-/

namespace Sys2Proof.Machine

/-- The level outputs of the result port (10_state.md R18). -/
inductive Output where
  | res
  | resv
  | busy
  | err
  | errc
deriving DecidableEq, Repr

/-- What the host saw on one output (R18). `res none` is a reading of `RES` while `RESV = 0`: it has no value and is a
fault of the host's, not of the block's (R21; 93_implementation_defined.md U12). -/
inductive Reading where
  | res (value : Option Word)
  | resv (value : Bool)
  | busy (value : Bool)
  | err (value : Bool)
  | errc (value : BitVec 2)
deriving DecidableEq, Repr

/-- What the host does next (10_state.md R16, R18, R19; 92_eei_decisions.md D12). `awaitIdle` and `pass` are the model's
way to say when the host does it, notes/assumptions/2.md. -/
inductive HostEvent where
  /-- `OFFER(w)`: the host offers a command word and holds it until it is taken (R16). -/
  | offer (w : Word)
  /-- `RESET` (R19). -/
  | reset
  /-- The host reads one output of the result port, at any time (R18). -/
  | read (o : Output)
  /-- The host watches `BUSY` until it sees 0, and so learns that the operation has returned (R18). -/
  | awaitIdle
  /-- The host makes no move for one step of the block. -/
  | pass
deriving DecidableEq, Repr

/-- A call of the codec on the transport port (10_state.md R17). -/
inductive Call where
  | sel
  | desel
  | xfer (o : Byte)
deriving DecidableEq, Repr

/-- A transport event of the observation (00_scope.md R14): `XFER(o)/i` carries the byte sent and the byte returned. -/
inductive Event where
  | sel
  | desel
  | xfer (o i : Byte)
deriving DecidableEq, Repr

/-- The register space of the reference device, one byte an address (20_memory.md R43, R66): a list of address and byte
pairs in canonical form (`Memory.wf`). -/
abbrev Memory := List Host.Cell

/-- The phase of the reference device `D0` (20_memory.md R66). -/
inductive Phase where
  | address
  | data
deriving DecidableEq, Repr

/-- The reference device `D0` of 20_memory.md R66, for running examples and for nothing else: it is not the
accelerometer. -/
structure RefDevice where
  /-- `reg[0x00..0x3F]`. -/
  reg : Memory
  /-- The internal register pointer `p`. -/
  p : Addr
  /-- The flag `rd` of the last address byte. -/
  rd : Bool
  /-- The flag `inc` of the last address byte. -/
  inc : Bool
  phase : Phase
deriving DecidableEq, Repr

/-- The transport, which stands for the adapter, the bus and the accelerometer together (00_scope.md R13). -/
inductive Transport where
  /-- A transport under no law (20_memory.md R61): it gives the lined-up answers in order, one for each attempt of a
  call, and then free ones, numbered from `draws` on. -/
  | oracle (answers : List Answer) (draws : Nat)
  /-- The reference device `D0`, which answers every call at once (20_memory.md R66). -/
  | reference (device : RefDevice)
deriving DecidableEq, Repr

/-- The state of the machine. -/
structure State where
  /-- `BUSY`: an operation is in progress (10_state.md R23). -/
  busy : Bool
  /-- `SEQ`: index of the next micro-step of the script in progress (R24). -/
  seq : BitVec 3
  /-- `CMD`: the last word the codec took (R22). -/
  cmd : Word
  /-- `RES`: the result register, read through `State.readRes` (R21). -/
  res : Word
  /-- `RESV`: `RES` holds a result (R25). -/
  resv : Bool
  /-- `SEL`: the selection line as the block drives it (R26). -/
  sel : Bool
  /-- `ERR`: sticky, a word was refused since reset (R27). -/
  err : Bool
  /-- `ERRC`: the code of the first refusal since reset (R28). -/
  errc : BitVec 2
  /-- `HB`: the byte captured as high (R41). -/
  hb : Byte
  /-- `LB`: the byte captured as low, or the only captured byte of `GETID`, `BEGIN` and `RDSTATUS` (R41). -/
  lb : Byte
  /-- The model's own: the configuration record, a parameter that no step writes (00_scope.md R8). -/
  cfg : Config
  /-- The model's own: what the host does, in its order, the next event first (00_scope.md R13). -/
  host : List HostEvent
  /-- The model's own: what the host has read from the result port, the first reading first (10_state.md R18). -/
  reads : List Reading
  /-- The model's own: the transport (00_scope.md R13). -/
  transport : Transport
  /-- The model's own: the transport events of the run so far, the first one first (00_scope.md R14 (a)). -/
  trace : List Event
deriving DecidableEq, Repr

/-- The reasons for which a step stops the machine. -/
inductive Fault where
  /-- Raised by a step with `BUSY = 1` in a state that no run reaches: `CMD` names no operation, or `SEQ` lies past the
  end of the script (10_state.md R24, R30 give such a state no next micro-step). Safe: no run stops here. -/
  | noMicroStep
deriving DecidableEq, Repr

/-- The reasons for which the model gives an instruction no meaning. -/
inductive Refusal where
  /-- For an instruction that has no meaning yet. Raised by no arm of `exec`: every instruction has its meaning.
  Safe: it only stops. -/
  | notModelled (mnemonic : String)
deriving DecidableEq, Repr

/-- Right after reset (10_state.md R42): idle, the line released, no result, no refusal. `RES`, `CMD`, `HB` and `LB` have
no value in R42; the zeros here are DESIGN CHOICE, notes/assumptions/1.md, unsafe. The build is the default one
(00_scope.md R8), the host has made no event, and the transport is free. -/
def State.reset : State where
  busy := false
  seq := 0#3
  cmd := 0x0000#16
  res := 0x0000#16
  resv := false
  sel := false
  err := false
  errc := 0#2
  hb := 0x00#8
  lb := 0x00#8
  cfg := Config.standard
  host := []
  reads := []
  transport := .oracle [] 0
  trace := []

end Sys2Proof.Machine
end

