-- ==== Sys2Proof/Machine/Flags.lean ====
section
/-!
DEFINITION. The computed flags: the identity comparison (40_codec_functions.md R105) and its result word, and the cause
register `ERRC` (10_state.md R28). No flag is a condition code: no operation reads one (10_state.md section 5).
-/

namespace Sys2Proof

/-- `id_match(b)` (R105): 1 exactly on the expected identity. -/
def idMatch (b : Byte) : BitVec 1 := if b = idExpected then 1#1 else 0#1

/-- The result of `BEGIN` for the byte read: `0x0001` or `0x0000` (10_state.md R21). -/
def idResult (b : Byte) : Word := (idMatch b).setWidth 16

end Sys2Proof

namespace Sys2Proof.Machine

/-- `ERRC` after a refusal: the first cause since reset stays (10_state.md R28, 60_exceptions.md R121). -/
def State.errcAfter (s : State) (c : RefuseCause) : BitVec 2 := if s.err then s.errc else c.code

end Sys2Proof.Machine
end

