-- ==== Sys2Proof/Machine/Ops.lean ====
section
/-!
DEFINITION. The named operations: the register space of the reference device, the transport calls, the updates of the
block's registers, the micro-step and the run of a script (10_state.md R29 to R31), refusal (60_exceptions.md R121),
reset (70_reset_and_hazards.md R135, R136), and the transaction shapes (20_memory.md R46 to R50).
-/

namespace Sys2Proof.Machine

/-! ### The register space of the reference device (20_memory.md R43, R66) -/

/-- What an unlisted address reads as: `0x00`. DESIGN CHOICE, notes/assumptions/4.md: R66 gives `D0` no initial
registers, 95_test_vectors.md program 5 starts the ones it does not name at `0x00`. -/
def Memory.unlisted : Byte := 0x00#8

/-- One byte of the register space. -/
def Memory.read : Memory → Nat → Byte
  | [], _ => Memory.unlisted
  | (k, b) :: m, a => if k = a then b else Memory.read m a

/-- Write one byte, keeping the canonical form. -/
def Memory.write : Memory → Nat → Byte → Memory
  | [], a, v => if v = Memory.unlisted then [] else [(a, v)]
  | (k, b) :: m, a, v =>
    if a < k then (if v = Memory.unlisted then (k, b) :: m else (a, v) :: (k, b) :: m)
    else if a = k then (if v = Memory.unlisted then m else (a, v) :: m)
    else (k, b) :: Memory.write m a v

/-- Every address of the list lies at or above `lo`, they rise strictly, and no entry holds the unlisted byte. -/
def Memory.wfFrom : Nat → Memory → Bool
  | _, [] => true
  | lo, (k, b) :: m => decide (lo ≤ k) && decide (k < 64) && (b != Memory.unlisted) && Memory.wfFrom (k + 1) m

/-- The canonical form: 64 cells, addresses strictly rising, no entry equal to what an unlisted address reads as. -/
def Memory.wf (m : Memory) : Bool := Memory.wfFrom 0 m

/-! ### The transport (10_state.md R17, 20_memory.md R61, R66) -/

/-- A device `D0` with the given registers that no call has reached yet. Its pointer, flags and phase are set by the
first `SEL` and address byte (R66); the values here are DESIGN CHOICE, notes/assumptions/4.md. -/
def RefDevice.fresh (reg : Memory) : RefDevice :=
  { reg := reg, p := 0x00#6, rd := false, inc := false, phase := .address }

/-- The pointer after a data transfer: advanced within 6 bits when the auto-increment flag is set (R66). -/
def RefDevice.advance (d : RefDevice) : RefDevice := { d with p := if d.inc then d.p + 1#6 else d.p }

/-- `D0` on `XFER(o)` (R66): the byte returned and the device after it. -/
def RefDevice.transfer (d : RefDevice) (o : Byte) : Byte × RefDevice :=
  match d.phase with
  | .address =>
    (0x00#8, { d with rd := o.getLsbD 7, inc := o.getLsbD 6, p := o.extractLsb' 0 6, phase := .data })
  | .data =>
    if d.rd then (Memory.read d.reg d.p.toNat, d.advance)
    else (0x00#8, { d with reg := Memory.write d.reg d.p.toNat o }.advance)

/-- `D0` on any call (R66). -/
def RefDevice.call (d : RefDevice) : Call → Byte × RefDevice
  | .sel => (0x00#8, { d with phase := .address })
  | .desel => (0x00#8, d)
  | .xfer o => d.transfer o

/-- The byte of an answer, `none` while the call has not returned. -/
def answerByte : Answer → Option Byte
  | .pending => none
  | .returned i => some i

/-- One attempt of a call: the byte it returns, or `none` when it has not returned (70_reset_and_hazards.md R149), and
the transport after the attempt. -/
def Transport.call : Transport → Call → Option Byte × Transport
  | .oracle (a :: rest) n, _ => (answerByte a, .oracle rest n)
  | .oracle [] n, _ => (answerByte (Config.transportAnswer n), .oracle [] (n + 1))
  | .reference d, c => (some (d.call c).1, .reference (d.call c).2)

/-- The event of a call that returned `i` (00_scope.md R14). -/
def Call.event (c : Call) (i : Byte) : Event :=
  match c with
  | .sel => .sel
  | .desel => .desel
  | .xfer o => .xfer o i

/-! ### Updates of the state -/

def State.withTransport (s : State) (t : Transport) : State := { s with transport := t }

def State.withHost (s : State) (h : List HostEvent) : State := { s with host := h }

def State.withCmd (s : State) (w : Word) : State := { s with cmd := w }

def State.withSel (s : State) (b : Bool) : State := { s with sel := b }

def State.withHb (s : State) (b : Byte) : State := { s with hb := b }

def State.withLb (s : State) (b : Byte) : State := { s with lb := b }

def State.log (s : State) (e : Event) : State := { s with trace := s.trace ++ [e] }

/-- `SEQ <- SEQ + 1` (10_state.md R24, R30). -/
def State.nextSeq (s : State) : State := { s with seq := s.seq + 1#3 }

/-- `BUSY <- 1; SEQ <- 0` (10_state.md R29). -/
def State.start (s : State) : State := { s with busy := true, seq := 0#3 }

/-- `RES` and `RESV` at the completion of an operation that returns a value, neither for one that returns none
(10_state.md R21, R25). -/
def State.writeResult (s : State) : Option Word → State
  | none => s
  | some v => { s with res := v, resv := true }

/-- `SEQ <- 0; BUSY <- 0` (10_state.md R31). `HB` and `LB`, which hold no value outside an operation (R41), are kept:
DESIGN CHOICE, notes/assumptions/12.md. -/
def State.finish (s : State) : State := { s with busy := false, seq := 0#3 }

/-! ### The result port (10_state.md R18, R21) -/

/-- `RES` as the host may read it: no value while `RESV = 0` (R21). -/
def State.readRes (s : State) : Option Word := if s.resv then some s.res else none

/-- What the host sees on an output now (R18). -/
def State.output (s : State) : Output → Reading
  | .res => .res s.readRes
  | .resv => .resv s.resv
  | .busy => .busy s.busy
  | .err => .err s.err
  | .errc => .errc s.errc

/-- The host reads an output. The block does not notice. -/
def State.hostReads (s : State) (o : Output) : State := { s with reads := s.reads ++ [s.output o] }

/-! ### Refusal and reset -/

/-- `raise Refused(c)` (60_exceptions.md R121): the one exception. Nothing returns from it (R127). -/
def State.raiseRefused (s : State) (c : RefuseCause) : State := { s with err := true, errc := s.errcAfter c }

/-- `RESET` (70_reset_and_hazards.md R135, R136): every piece of block state at its reset value; a selected line is
released, which the transport sees as a `DESEL` event. The device is not touched (R137). That the release is not awaited
and the transport keeps its state also when `RESET` meets a busy block is DESIGN CHOICE, notes/assumptions/10.md. -/
def State.resetBlock (s : State) : State :=
  { State.reset with
    cfg := s.cfg
    host := s.host
    reads := s.reads
    transport := s.transport
    trace := if s.sel then s.trace ++ [.desel] else s.trace }

/-! ### Scripts (10_state.md R30) -/

/-- An entry of a script (R30). -/
inductive MicroOp where
  | sel
  | desel
  /-- `XFER(o)`, the returned byte discarded. -/
  | xfer (o : Byte)
  /-- `HB <- XFER(o)`. -/
  | captureHigh (o : Byte)
  /-- `LB <- XFER(o)`. -/
  | captureLow (o : Byte)
deriving DecidableEq, Repr

/-- The transport call of an entry (R30). -/
def MicroOp.call : MicroOp → Call
  | .sel => .sel
  | .desel => .desel
  | .xfer o => .xfer o
  | .captureHigh o => .xfer o
  | .captureLow o => .xfer o

/-- What an entry does to the block when its call has returned `i` (R30). -/
def MicroOp.effect (m : MicroOp) (i : Byte) (s : State) : State :=
  match m with
  | .sel => s.withSel true
  | .desel => s.withSel false
  | .xfer _ => s
  | .captureHigh _ => s.withHb i
  | .captureLow _ => s.withLb i

/-- After an entry that is not the last, `SEQ` advances (R30); after the last one the operation completes, its result
read from the capture registers (R31). -/
def State.conclude (s : State) (result : Byte → Byte → Option Word) (rest : List MicroOp) : State :=
  match rest with
  | [] => (s.writeResult (result s.hb s.lb)).finish
  | _ :: _ => s.nextSeq

/-- The entries of a script from the present one on, one after the other (R30), until the operation completes or a call
has not returned: then the block stays in that micro-step (70_reset_and_hazards.md R149). -/
def State.run (result : Byte → Byte → Option Word) : List MicroOp → State → State
  | [], s => s
  | m :: rest, s =>
    match s.transport.call m.call with
    | (none, t) => s.withTransport t
    | (some i, t) =>
      State.run result rest
        ((m.effect i ((s.withTransport t).log (m.call.event i))).conclude result rest)

/-- The operation with this script and this result: taken when the block is idle (R29), resumed at `SEQ` when it is
busy (R30). -/
def State.perform (script : List MicroOp) (result : Byte → Byte → Option Word) (s : State) :
    Host.Outcome State Fault Refusal :=
  if s.busy then
    match script.drop s.seq.toNat with
    | [] => .fault .noMicroStep
    | m :: rest => .next (State.run result (m :: rest) s)
  else .next (State.run result script s.start)

/-! ### Transactions (20_memory.md R46 to R50) -/

/-- `TxnWrite(a, v)` (R47). -/
def txnWrite (a : Addr) (v : Byte) : List MicroOp := [.sel, .xfer (addrByte a 0#1 0#1), .xfer v, .desel]

/-- `TxnRead(a)` (R48), the byte captured as low. -/
def txnReadLow (c : Config) (a : Addr) : List MicroOp :=
  [.sel, .xfer (addrByte a 1#1 0#1), .captureLow c.filler, .desel]

/-- `TxnRead(a)` (R48), the byte captured as high. -/
def txnReadHigh (c : Config) (a : Addr) : List MicroOp :=
  [.sel, .xfer (addrByte a 1#1 0#1), .captureHigh c.filler, .desel]

/-- `TxnBurstRead2(a)` (R49): the register at `a` is the low byte, the next one the high byte. -/
def txnBurstRead2 (c : Config) (a : Addr) : List MicroOp :=
  [.sel, .xfer (addrByte a 1#1 1#1), .captureLow c.filler, .captureHigh c.filler, .desel]

/-- `TxnResetFilter()` (R50): the read flag set, the data byte `0x00` and not `FILLER` (90_conflicts.md C2). -/
def txnResetFilter (c : Config) : List MicroOp :=
  [.sel, .xfer (addrByte c.addrHpReset 1#1 0#1), .xfer 0x00#8, .desel]

/-! ### Results (10_state.md R21), from the capture registers `HB` and `LB` (R41) -/

/-- No return: the setters and `RSTFILT`. -/
def resultNone (_ _ : Byte) : Option Word := none

/-- The raw byte in `LB`. -/
def resultLow (_ lb : Byte) : Option Word := some (rawByte lb)

/-- The raw byte in `HB`. -/
def resultHigh (hb _ : Byte) : Option Word := some (rawByte hb)

/-- The boolean of `BEGIN`. -/
def resultIdentity (_ lb : Byte) : Option Word := some (idResult lb)

/-- The sample of the discrete protocol. -/
def resultDiscrete (hb lb : Byte) : Option Word := some (decDiscrete hb lb)

/-- The sample of the burst protocol. -/
def resultBurst (hb lb : Byte) : Option Word := some (decBurst lb hb)

/-! ### The host's next command -/

/-- The state in which the host offers `w` next and the block is ready to take it: idle, the line released. -/
def State.offerNext (s : State) (w : Word) : State :=
  { s with busy := false, seq := 0#3, sel := false, host := .offer w :: s.host }

end Sys2Proof.Machine
end

