-- ==== Sys2Proof/Machine/Configuration.lean ====
section
/-!
DEFINITION. The configuration operations of 41_config.md: one control byte, one write transaction, no result (R107).
-/

namespace Sys2Proof.Machine

/-- The script of `SETCTRL1` (R108). -/
def scriptSetctrl1 (c : Config) (pwr : Pwr) (rate : Rate) : List MicroOp := txnWrite c.addrCtrl1 (encCtrl1 pwr rate)

/-- `SETCTRL1 PWR, RATE` (R108). -/
def execSetctrl1 (pwr : Pwr) (rate : Rate) (s : State) : Host.Outcome State Fault Refusal :=
  s.perform (scriptSetctrl1 s.cfg pwr rate) resultNone

/-- The script of `SETCTRL2` (R109). -/
def scriptSetctrl2 (c : Config) (fs : Fs) (bdu : Bdu) (ien : Ien) (drdy : Drdy) (sim : Sim) (align : Align) :
    List MicroOp :=
  txnWrite c.addrCtrl2 (encCtrl2 c fs bdu ien drdy sim align)

/-- `SETCTRL2 FS, BDU, IEN, DRDY, SIM[, ALIGN]` (R109). -/
def execSetctrl2 (fs : Fs) (bdu : Bdu) (ien : Ien) (drdy : Drdy) (sim : Sim) (align : Align) (s : State) :
    Host.Outcome State Fault Refusal :=
  s.perform (scriptSetctrl2 s.cfg fs bdu ien drdy sim align) resultNone

/-- The script of `SETCTRL3` (R110). -/
def scriptSetctrl3 (c : Config) (eck : Eck) (hpdd : Hpdd) (hpff : Hpff) (fds : Fds) (cfs : Cfs) : List MicroOp :=
  txnWrite c.addrCtrl3 (encCtrl3 eck hpdd hpff fds cfs)

/-- `SETCTRL3 ECK, HPDD, HPFF, FDS, CFS` (R110). -/
def execSetctrl3 (eck : Eck) (hpdd : Hpdd) (hpff : Hpff) (fds : Fds) (cfs : Cfs) (s : State) :
    Host.Outcome State Fault Refusal :=
  s.perform (scriptSetctrl3 s.cfg eck hpdd hpff fds cfs) resultNone

end Sys2Proof.Machine
end

