-- ==== Sys2Proof/Machine/Identity.lean ====
section
/-!
DEFINITION. The identity and status operations of 42_identity_status.md.
-/

namespace Sys2Proof.Machine

/-- The script of `GETID` (R111). -/
def scriptGetid (c : Config) : List MicroOp := txnReadLow c c.addrWhoAmI

/-- `GETID` (R111): the raw identity byte. -/
def execGetid (s : State) : Host.Outcome State Fault Refusal := s.perform (scriptGetid s.cfg) resultLow

/-- The script of `BEGIN` (R112): on the transport the same as `GETID`'s. -/
def scriptBegin (c : Config) : List MicroOp := txnReadLow c c.addrWhoAmI

/-- `BEGIN` (R112): whether the identity byte is the expected one. A mismatch is a value, not an exception. -/
def execBegin (s : State) : Host.Outcome State Fault Refusal := s.perform (scriptBegin s.cfg) resultIdentity

/-- The script of `RDSTATUS` (R113). -/
def scriptRdstatus (c : Config) : List MicroOp := txnReadLow c c.addrStatus

/-- `RDSTATUS` (R113): the raw status byte, uninterpreted. -/
def execRdstatus (s : State) : Host.Outcome State Fault Refusal := s.perform (scriptRdstatus s.cfg) resultLow

/-- The script of `RSTFILT` (R114). -/
def scriptRstfilt (c : Config) : List MicroOp := txnResetFilter c

/-- `RSTFILT` (R114): the read-framed zero-byte access, its answer thrown away, no result. -/
def execRstfilt (s : State) : Host.Outcome State Fault Refusal := s.perform (scriptRstfilt s.cfg) resultNone

end Sys2Proof.Machine
end

