-- ==== Sys2Proof/Machine/Sample.lean ====
section
/-!
DEFINITION. The sample acquisition operations of 43_sample.md. They exist in every profile, and none consults what was
last written to a control register (R115, 70_reset_and_hazards.md R144).
-/

namespace Sys2Proof.Machine

/-- The script of `RDH` (R116). -/
def scriptRdh (c : Config) (axis : Axis) : List MicroOp := txnReadHigh c (c.outH axis)

/-- `RDH AXIS` (R116): the raw high byte, zero-extended. -/
def execRdh (axis : Axis) (s : State) : Host.Outcome State Fault Refusal :=
  s.perform (scriptRdh s.cfg axis) resultHigh

/-- The script of `RDL` (R117). -/
def scriptRdl (c : Config) (axis : Axis) : List MicroOp := txnReadLow c (c.outL axis)

/-- `RDL AXIS` (R117): the raw low byte. -/
def execRdl (axis : Axis) (s : State) : Host.Outcome State Fault Refusal :=
  s.perform (scriptRdl s.cfg axis) resultLow

/-- The script of `RDD` (R118): two transactions, the high byte strictly before the low byte. -/
def scriptRdd (c : Config) (axis : Axis) : List MicroOp :=
  txnReadHigh c (c.outH axis) ++ txnReadLow c (c.outL axis)

/-- `RDD AXIS` (R118): the sample by the discrete protocol. -/
def execRdd (axis : Axis) (s : State) : Host.Outcome State Fault Refusal :=
  s.perform (scriptRdd s.cfg axis) resultDiscrete

/-- The script of `RDB` (R119): one transaction from the low byte's address. -/
def scriptRdb (c : Config) (axis : Axis) : List MicroOp := txnBurstRead2 c (c.outL axis)

/-- `RDB AXIS` (R119): the sample by the burst protocol. -/
def execRdb (axis : Axis) (s : State) : Host.Outcome State Fault Refusal :=
  s.perform (scriptRdb s.cfg axis) resultBurst

end Sys2Proof.Machine
end

