-- ==== Sys2Proof/Machine/Dispatch.lean ====
section
/-!
DEFINITION. One arm for each operation (30_encoding.md R72): the operation that `CMD` names, from its take when the block
is idle, from micro-step `SEQ` on when it is busy.
-/

namespace Sys2Proof.Machine

def exec (i : Instr) (s : State) : Host.Outcome State Fault Refusal :=
  match i with
  | .getid => Sys2Proof.Machine.execGetid s
  | .beginCheck => Sys2Proof.Machine.execBegin s
  | .setctrl1 pwr rate => Sys2Proof.Machine.execSetctrl1 pwr rate s
  | .setctrl2 fs bdu ien drdy sim align => Sys2Proof.Machine.execSetctrl2 fs bdu ien drdy sim align s
  | .setctrl3 eck hpdd hpff fds cfs => Sys2Proof.Machine.execSetctrl3 eck hpdd hpff fds cfs s
  | .rstfilt => Sys2Proof.Machine.execRstfilt s
  | .rdstatus => Sys2Proof.Machine.execRdstatus s
  | .rdh axis => Sys2Proof.Machine.execRdh axis s
  | .rdl axis => Sys2Proof.Machine.execRdl axis s
  | .rdd axis => Sys2Proof.Machine.execRdd axis s
  | .rdb axis => Sys2Proof.Machine.execRdb axis s

end Sys2Proof.Machine
end

