-- ==== Sys2Proof/Machine/Sequencer.lean ====
section
/-!
DEFINITION. What one step of the machine is: the take of an offered word, the resumption of an operation whose transport
call had not returned, and the host's other events (10_state.md R16, R18, R19, R29, R30).
-/

namespace Sys2Proof.Machine

/-- The take (R29): `CMD <- w`, then the operation runs, or the word is refused with `BUSY` still 0. -/
def State.take (w : Word) (s : State) : Host.Outcome State Fault Refusal :=
  match decode s.cfg.profile w with
  | .instr i => exec i (s.withCmd w)
  | .refused c => .next ((s.withCmd w).raiseRefused c)

/-- The operation that `CMD` names goes on at `SEQ` (R30). A `CMD` that names none is a state no run reaches. -/
def State.resume (s : State) : Host.Outcome State Fault Refusal :=
  match decode s.cfg.profile s.cmd with
  | .instr i => exec i s
  | .refused _ => .fault .noMicroStep

/-- One step: `RESET` at any time (R19, 70_reset_and_hazards.md R135); the host's reading of an output at any time (R18);
an offer is taken only when the block is idle and held otherwise (R16); a host that awaits the end of the operation sees
`BUSY = 0` only when the block is idle (R18); a busy block goes on with its operation; an idle block without an offer
waits (60_exceptions.md R129). -/
def State.advanceBlock (s : State) : Host.Outcome State Fault Refusal :=
  match s.host, s.busy with
  | .reset :: rest, _ => .next (s.withHost rest).resetBlock
  | .read o :: rest, _ => .next ((s.withHost rest).hostReads o)
  | .offer w :: rest, false => (s.withHost rest).take w
  | .offer _ :: _, true => s.resume
  | .awaitIdle :: rest, false => .next ((s.withHost rest).hostReads .busy)
  | .awaitIdle :: _, true => s.resume
  | .pass :: rest, false => .next (s.withHost rest)
  | .pass :: rest, true => (s.withHost rest).resume
  | [], true => s.resume
  | [], false => .next s

end Sys2Proof.Machine
end

