-- ==== Sys2Proof/Machine/Step.lean ====
section
/-!
DEFINITION. The step of the machine, and the state whose next step takes a given word. The block has no program counter
and fetches nothing (10_state.md R24): the next instruction is the word the host offers next (R16).
-/

namespace Sys2Proof.Machine

/-- One step of the machine. -/
def step (s : State) : Host.Outcome State Fault Refusal := s.advanceBlock

/-- The state in which the host offers the table word next and the block takes it in the very next step. -/
def State.withFetchWord (s : State) (nbits w : Nat) : State := s.offerNext (tableWord nbits w)

end Sys2Proof.Machine
end

