-- ==== Sys2Proof/Machine/Assembler.lean ====
section
/-!
DEFINITION. The listing syntax and the assembler of 30_encoding.md R83 to R85, over lists of characters: one operation a
line, the mnemonic, then the operand keywords of R69 separated by commas; `;` starts a comment; `.word` writes a number;
`RDAXIS` is the one pseudo-instruction. The block has none of this: it is what a host writes words with.
-/

namespace Sys2Proof

/-- The assembly-time symbol `ACQ` of `RDAXIS` (R85), no part of the hardware. -/
inductive Acq where
  | discrete
  | burst
deriving DecidableEq, Repr

/-! ### Keywords (R69) -/

def Pwr.keyword : Pwr → String
  | .off => "OFF"
  | .on => "ON"

def Rate.keyword : Rate → String
  | .hz40 => "HZ40"
  | .hz160 => "HZ160"
  | .hz640 => "HZ640"
  | .hz2560 => "HZ2560"

def Fs.keyword : Fs → String
  | .g2 => "G2"
  | .g6 => "G6"

def Bdu.keyword : Bdu → String
  | .cont => "CONT"
  | .latch => "LATCH"

def Ien.keyword : Ien → String
  | .intOff => "INT_OFF"
  | .intOn => "INT_ON"

def Drdy.keyword : Drdy → String
  | .drdyOff => "DRDY_OFF"
  | .drdyOn => "DRDY_ON"

def Sim.keyword : Sim → String
  | .wire4 => "WIRE4"
  | .wire3 => "WIRE3"

def Align.keyword : Align → String
  | .r12 => "R12"
  | .l16 => "L16"

def Eck.keyword : Eck → String
  | .ckInt => "CK_INT"
  | .ckExt => "CK_EXT"

def Hpdd.keyword : Hpdd → String
  | .ddOff => "DD_OFF"
  | .ddOn => "DD_ON"

def Hpff.keyword : Hpff → String
  | .ffOff => "FF_OFF"
  | .ffOn => "FF_ON"

def Fds.keyword : Fds → String
  | .fdsOff => "FDS_OFF"
  | .fdsOn => "FDS_ON"

def Cfs.keyword : Cfs → String
  | .hpc512 => "HPC512"
  | .hpc1024 => "HPC1024"
  | .hpc2048 => "HPC2048"
  | .hpc4096 => "HPC4096"

def Axis.keyword : Axis → String
  | .x => "X"
  | .y => "Y"
  | .z => "Z"

/-- The mnemonic of an operation (R72, R83). -/
def Instr.mnemonic : Instr → String
  | .getid => "GETID"
  | .beginCheck => "BEGIN"
  | .setctrl1 _ _ => "SETCTRL1"
  | .setctrl2 _ _ _ _ _ _ => "SETCTRL2"
  | .setctrl3 _ _ _ _ _ => "SETCTRL3"
  | .rstfilt => "RSTFILT"
  | .rdstatus => "RDSTATUS"
  | .rdh _ => "RDH"
  | .rdl _ => "RDL"
  | .rdd _ => "RDD"
  | .rdb _ => "RDB"

/-! ### Listing -/

/-- The operand keywords of an operation, in the order of R72; no alignment keyword under `P12` and `P16` (R83). -/
def Instr.keywords (p : Ctrl2Profile) : Instr → List String
  | .getid => []
  | .beginCheck => []
  | .setctrl1 pwr rate => [pwr.keyword, rate.keyword]
  | .setctrl2 fs bdu ien drdy sim align =>
    [fs.keyword, bdu.keyword, ien.keyword, drdy.keyword, sim.keyword] ++
      (match p with
      | .palign => [align.keyword]
      | .p12 => []
      | .p16 => [])
  | .setctrl3 eck hpdd hpff fds cfs => [eck.keyword, hpdd.keyword, hpff.keyword, fds.keyword, cfs.keyword]
  | .rstfilt => []
  | .rdstatus => []
  | .rdh axis => [axis.keyword]
  | .rdl axis => [axis.keyword]
  | .rdd axis => [axis.keyword]
  | .rdb axis => [axis.keyword]

/-- Operands with `, ` between them. -/
def joinOperands : List String → List Char
  | [] => []
  | [k] => k.toList
  | k :: ks => k.toList ++ [',', ' '] ++ joinOperands ks

/-- The listing line of an operation (R83). -/
def Instr.listing (p : Ctrl2Profile) (i : Instr) : List Char :=
  match i.keywords p with
  | [] => i.mnemonic.toList
  | ks => i.mnemonic.toList ++ [' '] ++ joinOperands ks

/-! ### Reading a line -/

/-- A line without its comment (R83). -/
def stripComment (l : List Char) : List Char := l.takeWhile (· ≠ ';')

/-- Without blanks at either end. -/
def trimBlanks (l : List Char) : List Char :=
  ((l.dropWhile (· = ' ')).reverse.dropWhile (· = ' ')).reverse

/-- The pieces between commas, each without blanks at its ends. -/
def splitOperands : List Char → List Char → List (List Char)
  | acc, [] => [trimBlanks acc.reverse]
  | acc, x :: l => if x = ',' then trimBlanks acc.reverse :: splitOperands [] l else splitOperands (x :: acc) l

/-- The mnemonic of a line and its operands: no operand when nothing follows the mnemonic. -/
def readLine (l : List Char) : List Char × List (List Char) :=
  let body := trimBlanks (stripComment l)
  let rest := trimBlanks (body.dropWhile (· ≠ ' '))
  (body.takeWhile (· ≠ ' '), if rest = [] then [] else splitOperands [] rest)

/-- The member of an enumeration that a keyword names (R69, R84). -/
def byKeyword {α : Type} (members : List α) (keyword : α → String) (t : List Char) : Option α :=
  members.find? fun a => (keyword a).toList == t

def readPwr : List Char → Option Pwr := byKeyword [.off, .on] Pwr.keyword

def readRate : List Char → Option Rate := byKeyword [.hz40, .hz160, .hz640, .hz2560] Rate.keyword

def readFs : List Char → Option Fs := byKeyword [.g2, .g6] Fs.keyword

def readBdu : List Char → Option Bdu := byKeyword [.cont, .latch] Bdu.keyword

def readIen : List Char → Option Ien := byKeyword [.intOff, .intOn] Ien.keyword

def readDrdy : List Char → Option Drdy := byKeyword [.drdyOff, .drdyOn] Drdy.keyword

def readSim : List Char → Option Sim := byKeyword [.wire4, .wire3] Sim.keyword

def readAlign : List Char → Option Align := byKeyword [.r12, .l16] Align.keyword

def readEck : List Char → Option Eck := byKeyword [.ckInt, .ckExt] Eck.keyword

def readHpdd : List Char → Option Hpdd := byKeyword [.ddOff, .ddOn] Hpdd.keyword

def readHpff : List Char → Option Hpff := byKeyword [.ffOff, .ffOn] Hpff.keyword

def readFds : List Char → Option Fds := byKeyword [.fdsOff, .fdsOn] Fds.keyword

def readCfs : List Char → Option Cfs := byKeyword [.hpc512, .hpc1024, .hpc2048, .hpc4096] Cfs.keyword

def readAxis : List Char → Option Axis := byKeyword [.x, .y, .z] Axis.keyword

/-- `RDAXIS a` (R85): under `P12` only the discrete protocol, under `P16` only the burst protocol. -/
def rdaxis (p : Ctrl2Profile) (acq : Acq) (axis : Axis) : Option Instr :=
  match p, acq with
  | .p12, .discrete => some (.rdd axis)
  | .p12, .burst => none
  | .p16, .discrete => none
  | .p16, .burst => some (.rdb axis)
  | .palign, .discrete => some (.rdd axis)
  | .palign, .burst => some (.rdb axis)

/-- The alignment operand of a `SETCTRL2` line (R83): present under `PALIGN` only. -/
def readAlignOperand (p : Ctrl2Profile) (ts : List (List Char)) : Option Align :=
  match p, ts with
  | .palign, [t] => readAlign t
  | .p12, [] => some .r12
  | .p16, [] => some .r12
  | _, _ => none

/-- The operation that a mnemonic and its operands name in a build (R83, R85). `acq` is the symbol `ACQ`, if defined. -/
def readInstr (p : Ctrl2Profile) (acq : Option Acq) (m : List Char) (ts : List (List Char)) : Option Instr :=
  if m = "GETID".toList then (match ts with | [] => some .getid | _ => none)
  else if m = "BEGIN".toList then (match ts with | [] => some .beginCheck | _ => none)
  else if m = "RSTFILT".toList then (match ts with | [] => some .rstfilt | _ => none)
  else if m = "RDSTATUS".toList then (match ts with | [] => some .rdstatus | _ => none)
  else if m = "SETCTRL1".toList then
    (match ts with
    | [a, b] => do return .setctrl1 (← readPwr a) (← readRate b)
    | _ => none)
  else if m = "SETCTRL2".toList then
    (match ts with
    | a :: b :: d :: e :: f :: g => do
      return .setctrl2 (← readFs a) (← readBdu b) (← readIen d) (← readDrdy e) (← readSim f)
        (← readAlignOperand p g)
    | _ => none)
  else if m = "SETCTRL3".toList then
    (match ts with
    | [a, b, d, e, f] => do
      return .setctrl3 (← readEck a) (← readHpdd b) (← readHpff d) (← readFds e) (← readCfs f)
    | _ => none)
  else
    match ts with
    | [a] =>
      if m = "RDH".toList then (readAxis a).map .rdh
      else if m = "RDL".toList then (readAxis a).map .rdl
      else if m = "RDD".toList then (readAxis a).map .rdd
      else if m = "RDB".toList then (readAxis a).map .rdb
      else if m = "RDAXIS".toList then do rdaxis p (← acq) (← readAxis a)
      else none
    | _ => none

/-- One digit of a number. The digits above 9 are upper-case only: DESIGN CHOICE, notes/assumptions/14.md, as R10 and R84
name no letter case. -/
def digitOf (x : Char) : Option Nat :=
  (['0', '1', '2', '3', '4', '5', '6', '7', '8', '9', 'A', 'B', 'C', 'D', 'E', 'F'] : List Char).idxOf? x

/-- Digits in a base, the most significant first. -/
def readDigits (base : Nat) : Nat → List Char → Option Nat
  | acc, [] => some acc
  | acc, x :: l =>
    match digitOf x with
    | some d => if d < base then readDigits base (acc * base + d) l else none
    | none => none

/-- A literal (00_scope.md R10): `0x` hexadecimal, `0b` binary, anything else decimal. -/
def readNumber : List Char → Option Nat
  | [] => none
  | '0' :: 'x' :: x :: l => readDigits 16 0 (x :: l)
  | '0' :: 'b' :: x :: l => readDigits 2 0 (x :: l)
  | x :: l => readDigits 10 0 (x :: l)

/-- `.word` (R84): the only spelling of a reserved word. -/
def readWord (ts : List (List Char)) : Option Word :=
  match ts with
  | [t] =>
    match readNumber t with
    | some n => if n < 65536 then some (BitVec.ofNat 16 n) else none
    | none => none
  | _ => none

/-- The word that one line assembles to in a build (R84). -/
def assembleLine (p : Ctrl2Profile) (acq : Option Acq) (line : List Char) : Option Word :=
  let l := readLine line
  if l.1 = ".word".toList then readWord l.2 else (readInstr p acq l.1 l.2).map encode

end Sys2Proof
end

