-- ==== Sys2Proof/Safety.lean ====
section
/-!
DEFINITION. The terms in which claims speak of runs: the script and the result of each operation, a transport that
returns, the framing of the transport events (10_state.md R26, 20_memory.md R46), the observation (00_scope.md R14), and
the invariant of the machine.
-/

namespace Sys2Proof.Machine

/-! ### Scripts and results by operation -/

/-- `script(CMD)` for the operation that `CMD` names (10_state.md R30). -/
def script (c : Config) : Instr → List MicroOp
  | .getid => scriptGetid c
  | .beginCheck => scriptBegin c
  | .setctrl1 pwr rate => scriptSetctrl1 c pwr rate
  | .setctrl2 fs bdu ien drdy sim align => scriptSetctrl2 c fs bdu ien drdy sim align
  | .setctrl3 eck hpdd hpff fds cfs => scriptSetctrl3 c eck hpdd hpff fds cfs
  | .rstfilt => scriptRstfilt c
  | .rdstatus => scriptRdstatus c
  | .rdh axis => scriptRdh c axis
  | .rdl axis => scriptRdl c axis
  | .rdd axis => scriptRdd c axis
  | .rdb axis => scriptRdb c axis

/-- The calls of a script, in order. -/
def scriptCalls (c : Config) (i : Instr) : List Call := (script c i).map MicroOp.call

/-- What the completion of an operation writes to `RES`, from `HB` and `LB` (10_state.md R21). -/
def resultOf : Instr → Byte → Byte → Option Word
  | .getid => resultLow
  | .beginCheck => resultIdentity
  | .setctrl1 _ _ => resultNone
  | .setctrl2 _ _ _ _ _ _ => resultNone
  | .setctrl3 _ _ _ _ _ => resultNone
  | .rstfilt => resultNone
  | .rdstatus => resultLow
  | .rdh _ => resultHigh
  | .rdl _ => resultLow
  | .rdd _ => resultDiscrete
  | .rdb _ => resultBurst

/-- The operations that return a value (10_state.md R21). -/
def returnsValue : Instr → Bool
  | .getid => true
  | .beginCheck => true
  | .setctrl1 _ _ => false
  | .setctrl2 _ _ _ _ _ _ => false
  | .setctrl3 _ _ _ _ _ => false
  | .rstfilt => false
  | .rdstatus => true
  | .rdh _ => true
  | .rdl _ => true
  | .rdd _ => true
  | .rdb _ => true

/-- What an operation returns for the bytes `bs` that its calls, `SEL` and `DESEL` among them, returned in order
(10_state.md R21, R31; the atomic reading of an operation). `none` where it returns nothing. -/
def resultOfBytes : Instr → List Byte → Option Word
  | .getid, [_, _, b, _] => some (rawByte b)
  | .beginCheck, [_, _, b, _] => some (idResult b)
  | .rdstatus, [_, _, b, _] => some (rawByte b)
  | .rdh _, [_, _, b, _] => some (rawByte b)
  | .rdl _, [_, _, b, _] => some (rawByte b)
  | .rdd _, [_, _, h, _, _, _, l, _] => some (h ++ l)
  | .rdb _, [_, _, l, h, _] => some (h ++ l)
  | _, _ => none

/-- The word that the row of the opcode table matches and its mask (30_encoding.md R72). -/
def rowMatch (i : Instr) : Word := i.op ++ 0x000#12

/-- The mask of the row of an operation: `OP` and the reserved bits of the build (30_encoding.md R72, R75). -/
def rowMask (p : Ctrl2Profile) (i : Instr) : Word := 0xF#4 ++ reservedMask p i.op

/-! ### A transport that returns -/

/-- The calls made one after the other, each returning at its first attempt: the bytes they return and the transport
after them; `none` when some call has not returned (70_reset_and_hazards.md R149). -/
def Transport.serve : Transport → List Call → Option (List Byte × Transport)
  | t, [] => some ([], t)
  | t, c :: cs =>
    match t.call c with
    | (none, _) => none
    | (some i, t') => (Transport.serve t' cs).map fun r => (i :: r.1, r.2)

/-- The events of calls that returned these bytes (00_scope.md R14). -/
def eventsOf (cs : List Call) (bs : List Byte) : List Event := List.zipWith Call.event cs bs

/-- The call of an event. -/
def Event.call : Event → Call
  | .sel => .sel
  | .desel => .desel
  | .xfer o _ => .xfer o

/-! ### Transactions and framing -/

/-- The four transaction shapes (20_memory.md R46 to R50), as data. -/
inductive Txn where
  | write (a : Addr) (v : Byte)
  | read (a : Addr)
  | burst (a : Addr)
  | resetFilter
deriving DecidableEq, Repr

/-- The address byte of a transaction (20_memory.md R47 to R50). -/
def Txn.addressByte (c : Config) : Txn → Byte
  | .write a _ => addrByte a 0#1 0#1
  | .read a => addrByte a 1#1 0#1
  | .burst a => addrByte a 1#1 1#1
  | .resetFilter => addrByte c.addrHpReset 1#1 0#1

/-- The data bytes that a transaction sends (30_encoding.md R82). -/
def Txn.dataBytes (c : Config) : Txn → List Byte
  | .write _ v => [v]
  | .read _ => [c.filler]
  | .burst _ => [c.filler, c.filler]
  | .resetFilter => [0x00#8]

/-- One `SEL`, the address byte, the data bytes, one `DESEL` (20_memory.md R46). -/
def Txn.calls (c : Config) (t : Txn) : List Call :=
  .sel :: .xfer (t.addressByte c) :: (t.dataBytes c).map .xfer ++ [.desel]

/-- The transactions of an operation (20_memory.md R44). -/
def transactions (c : Config) : Instr → List Txn
  | .getid => [.read c.addrWhoAmI]
  | .beginCheck => [.read c.addrWhoAmI]
  | .setctrl1 pwr rate => [.write c.addrCtrl1 (encCtrl1 pwr rate)]
  | .setctrl2 fs bdu ien drdy sim align => [.write c.addrCtrl2 (encCtrl2 c fs bdu ien drdy sim align)]
  | .setctrl3 eck hpdd hpff fds cfs => [.write c.addrCtrl3 (encCtrl3 eck hpdd hpff fds cfs)]
  | .rstfilt => [.resetFilter]
  | .rdstatus => [.read c.addrStatus]
  | .rdh axis => [.read (c.outH axis)]
  | .rdl axis => [.read (c.outL axis)]
  | .rdd axis => [.read (c.outH axis), .read (c.outL axis)]
  | .rdb axis => [.burst (c.outL axis)]

/-- The selection line after a call, `none` where the call breaks the framing (10_state.md R26): a `SEL` only when
released, a `DESEL` and an `XFER` only when selected. -/
def lineAfterCall (line : Bool) : Call → Option Bool
  | .sel => if line then none else some true
  | .desel => if line then some false else none
  | .xfer _ => if line then some true else none

/-- The selection line after a list of calls, `none` where one of them breaks the framing. -/
def lineAfter (line : Bool) : List Call → Option Bool
  | [] => some line
  | c :: cs =>
    match lineAfterCall line c with
    | some b => lineAfter b cs
    | none => none

/-- The selection line that the events of a run leave, starting released; `none` where the run broke the framing. -/
def traceLine (tr : List Event) : Option Bool := lineAfter false (tr.map Event.call)

/-! ### Observation -/

/-- The result port (10_state.md R18): `RES` has no value while `RESV = 0` (R21). -/
structure ResultPort where
  res : Option Word
  resv : Bool
  busy : Bool
  err : Bool
  errc : BitVec 2
deriving DecidableEq, Repr

/-- The result outputs (10_state.md R18). -/
def State.resultPort (s : State) : ResultPort :=
  { res := s.readRes, resv := s.resv, busy := s.busy, err := s.err, errc := s.errc }

/-- The host waits for the block: it makes no move, holds an offer, or watches `BUSY` (10_state.md R16, R18). -/
def State.hostWaits (s : State) : Bool :=
  match s.host with
  | [] => true
  | .offer _ :: _ => true
  | .awaitIdle :: _ => true
  | .reset :: _ => false
  | .read _ :: _ => false
  | .pass :: _ => false

/-- A run in which the host has read `RES` while it held no result, a fault of the host's (10_state.md R21). -/
def State.hostAtFault (s : State) : Bool := s.reads.contains (.res none)

/-- The observation of a run (00_scope.md R14): the transport events, and the result outputs whenever `BUSY = 0`. -/
def State.observe (s : State) : List Event × Option ResultPort :=
  (s.trace, if s.busy then none else some s.resultPort)

/-- `ERR = 1`, "gone wrong" (60_exceptions.md R121): a word has been refused since reset or since the last `RESET`, which
clears `ERR` (R127, 70_reset_and_hazards.md R135). That a run begins anew at `RESET`, so that a refusal before it no longer
counts, is DESIGN CHOICE, notes/assumptions/16.md: R121's "ever set" leaves open whether `RESET` ends the run. -/
def State.goneWrong (s : State) : Bool := s.err

/-! ### The invariant -/

/-- The registers of a reference device are in canonical form; any other transport is data under no law. -/
def Transport.wf : Transport → Bool
  | .oracle _ _ => true
  | .reference d => Memory.wf d.reg

/-- The sequencer of an idle block: `SEQ = 0` and the line released (10_state.md R24, R26). -/
def State.idleOk (s : State) : Prop := s.busy = false → s.seq = 0#3 ∧ s.sel = false

/-- The sequencer of a busy block: `CMD` names an operation, `SEQ` lies in its script, and the line is as the entries
before `SEQ` leave it (10_state.md R23, R24, R26, R30). -/
def State.busyOk (s : State) : Prop :=
  s.busy = true →
    ∃ i, decode s.cfg.profile s.cmd = .instr i ∧ s.seq.toNat < (script s.cfg i).length ∧
      lineAfter false ((scriptCalls s.cfg i).take s.seq.toNat) = some s.sel

/-- The invariant of the machine: the sequencer, the framing of all events of the run, the pair `ERR`, `ERRC`
(10_state.md R27, R28), and the canonical form of the reference device's registers. -/
structure State.Inv (s : State) : Prop where
  idle : s.idleOk
  busy : s.busyOk
  framed : traceLine s.trace = some s.sel
  cause : s.err = true ↔ s.errc ≠ 0#2
  memory : s.transport.wf = true

/-- The state that a step answers, where it answers one. -/
def nextOf : Host.Outcome State Fault Refusal → Option State
  | .next s => some s
  | .fault _ => none
  | .refused _ => none

end Sys2Proof.Machine
end

