-- ==== Sys2Proof/Certificates/Slice0/Obligations.lean ====
section
/-!
DEFINITION. The statements for the provers. Each says what the model does where a rule of spec/ says it. A transport
"serves" a list of calls when each returns at its first attempt (`Transport.serve`); its bytes are arbitrary.
-/

open Sys2Proof Sys2Proof.Machine

/-! ### The codec functions (40_codec_functions.md) -/

/-- R87: the address byte is `rd ++ inc ++ a`, its parts are recovered from it, and the composer is injective. -/
def Obligations.AddrByteIsFlagsThenAddress : Prop :=
  (∀ (a : Addr) (rd inc : BitVec 1),
    addrByte a rd inc = (rd.setWidth 8 <<< 7) ||| (inc.setWidth 8 <<< 6) ||| a.setWidth 8 ∧
    addrByte a rd inc = (rd ++ inc ++ a : BitVec (1 + 1 + 6)) ∧
    (addrByte a rd inc).extractLsb' 0 6 = a ∧
    (addrByte a rd inc).extractLsb' 7 1 = rd ∧
    (addrByte a rd inc).extractLsb' 6 1 = inc) ∧
  (∀ a : Addr, addrByte a 0#1 0#1 = a.setWidth 8 ∧ addrByte a 1#1 0#1 = 0x80#8 ||| a.setWidth 8 ∧
    addrByte a 1#1 1#1 = 0xC0#8 ||| a.setWidth 8 ∧ addrByte a 0#1 1#1 = 0x40#8 ||| a.setWidth 8) ∧
  (∀ (a a' : Addr) (rd rd' inc inc' : BitVec 1),
    addrByte a rd inc = addrByte a' rd' inc' → a = a' ∧ rd = rd' ∧ inc = inc')

/-- R90: control byte 1, as an OR over the base `0x07`, as fields, and its eight values. -/
def Obligations.Ctrl1ByteByFields : Prop :=
  (∀ (p : Pwr) (r : Rate),
    encCtrl1 p r = 0x07#8 ||| (p.code.setWidth 8 <<< 6) ||| (r.code.setWidth 8 <<< 4) ∧
    encCtrl1 p r = (0#1 ++ p.code ++ r.code ++ 0#1 ++ 7#3 : BitVec (1 + 1 + 2 + 1 + 3))) ∧
  encCtrl1 .off .hz40 = 0x07#8 ∧ encCtrl1 .off .hz160 = 0x17#8 ∧ encCtrl1 .off .hz640 = 0x27#8 ∧
  encCtrl1 .off .hz2560 = 0x37#8 ∧ encCtrl1 .on .hz40 = 0x47#8 ∧ encCtrl1 .on .hz160 = 0x57#8 ∧
  encCtrl1 .on .hz640 = 0x67#8 ∧ encCtrl1 .on .hz2560 = 0x77#8

/-- R92, R93: control byte 2 in each profile, bit by bit; the base byte by profile. -/
def Obligations.Ctrl2ByteByProfile : Prop :=
  (∀ (c : Config) (fs : Fs) (bdu : Bdu) (ien : Ien) (drdy : Drdy) (sim : Sim) (align : Align),
    encCtrl2 c fs bdu ien drdy sim align =
      base2 c align ||| (fs.code.setWidth 8 <<< 7) ||| (bdu.code.setWidth 8 <<< 6) ||| (ien.code.setWidth 8 <<< 3) |||
        (drdy.code.setWidth 8 <<< 2) ||| (sim.code.setWidth 8 <<< 1) ∧
    (encCtrl2 c fs bdu ien drdy sim align).extractLsb' 7 1 = fs.code ∧
    (encCtrl2 c fs bdu ien drdy sim align).extractLsb' 6 1 = bdu.code ∧
    (encCtrl2 c fs bdu ien drdy sim align).extractLsb' 3 1 = ien.code ∧
    (encCtrl2 c fs bdu ien drdy sim align).extractLsb' 2 1 = drdy.code ∧
    (encCtrl2 c fs bdu ien drdy sim align).extractLsb' 1 1 = sim.code ∧
    (encCtrl2 c fs bdu ien drdy sim align).extractLsb' c.alignBit.position 1 =
      (match c.profile with
      | .p12 => 0#1
      | .p16 => 1#1
      | .palign => align.code)) ∧
  (∀ (c : Config) (align : Align),
    (c.profile = .p12 → base2 c align = 0x00#8) ∧
    (c.profile = .p16 → base2 c align = 1#8 <<< c.alignBit.position) ∧
    (c.profile = .palign → base2 c align = align.code.setWidth 8 <<< c.alignBit.position))

/-- `PALIGN` contains the two other profiles. The spec marks this as its inference from the table of R93. -/
def Obligations.PalignContainsOtherProfiles : Prop :=
  ∀ (c c' : Config) (fs : Fs) (bdu : Bdu) (ien : Ien) (drdy : Drdy) (sim : Sim) (align : Align),
    c.profile = .palign → c'.alignBit = c.alignBit →
    (c'.profile = .p12 → encCtrl2 c' fs bdu ien drdy sim align = encCtrl2 c fs bdu ien drdy sim .r12) ∧
    (c'.profile = .p16 → encCtrl2 c' fs bdu ien drdy sim align = encCtrl2 c fs bdu ien drdy sim .l16)

/-- R94: control byte 3, as an OR and as fields. -/
def Obligations.Ctrl3ByteByFields : Prop :=
  ∀ (eck : Eck) (hpdd : Hpdd) (hpff : Hpff) (fds : Fds) (cfs : Cfs),
    encCtrl3 eck hpdd hpff fds cfs =
      (eck.code.setWidth 8 <<< 7) ||| (hpdd.code.setWidth 8 <<< 6) ||| (hpff.code.setWidth 8 <<< 5) |||
        (fds.code.setWidth 8 <<< 4) ||| cfs.code.setWidth 8 ∧
    encCtrl3 eck hpdd hpff fds cfs =
      (eck.code ++ hpdd.code ++ hpff.code ++ fds.code ++ 0#2 ++ cfs.code : BitVec (1 + 1 + 1 + 1 + 2 + 2))

/-- R96 for control register 1: (a) the base, (b) it is always contained, (c) disjoint options compose, (d) outside the
base exactly the documented bits. `u` is the tuple that takes each operand from whichever of `s`, `t` has it non-zero. -/
def Obligations.Ctrl1OptionsCompose : Prop :=
  encCtrl1 .off .hz40 = 0x07#8 ∧
  (∀ (p : Pwr) (r : Rate), encCtrl1 p r &&& 0x07#8 = 0x07#8 ∧
    encCtrl1 p r &&& ~~~0x07#8 = (p.code.setWidth 8 <<< 6) ||| (r.code.setWidth 8 <<< 4)) ∧
  (∀ (p p' pu : Pwr) (r r' ru : Rate),
    ((p = .off ∧ pu = p') ∨ (p' = .off ∧ pu = p)) → ((r = .hz40 ∧ ru = r') ∨ (r' = .hz40 ∧ ru = r)) →
    encCtrl1 p r ||| encCtrl1 p' r' = encCtrl1 pu ru)

/-- R96 for control register 2 in every build. -/
def Obligations.Ctrl2OptionsCompose : Prop :=
  (∀ c : Config, encCtrl2 c .g2 .cont .intOff .drdyOff .wire4 .r12 = base2 c .r12) ∧
  (∀ (c : Config) (fs : Fs) (bdu : Bdu) (ien : Ien) (drdy : Drdy) (sim : Sim) (align : Align),
    encCtrl2 c fs bdu ien drdy sim align &&& base2 c .r12 = base2 c .r12 ∧
    (c.profile.admits align = true →
      encCtrl2 c fs bdu ien drdy sim align &&& ~~~(base2 c .r12) =
        (fs.code.setWidth 8 <<< 7) ||| (bdu.code.setWidth 8 <<< 6) ||| (ien.code.setWidth 8 <<< 3) |||
          (drdy.code.setWidth 8 <<< 2) ||| (sim.code.setWidth 8 <<< 1) |||
          (align.code.setWidth 8 <<< c.alignBit.position))) ∧
  (∀ (c : Config) (fs fs' fu : Fs) (bdu bdu' bu : Bdu) (ien ien' iu : Ien) (drdy drdy' du : Drdy)
      (sim sim' su : Sim) (align align' au : Align),
    ((fs = .g2 ∧ fu = fs') ∨ (fs' = .g2 ∧ fu = fs)) →
    ((bdu = .cont ∧ bu = bdu') ∨ (bdu' = .cont ∧ bu = bdu)) →
    ((ien = .intOff ∧ iu = ien') ∨ (ien' = .intOff ∧ iu = ien)) →
    ((drdy = .drdyOff ∧ du = drdy') ∨ (drdy' = .drdyOff ∧ du = drdy)) →
    ((sim = .wire4 ∧ su = sim') ∨ (sim' = .wire4 ∧ su = sim)) →
    ((align = .r12 ∧ au = align') ∨ (align' = .r12 ∧ au = align)) →
    encCtrl2 c fs bdu ien drdy sim align ||| encCtrl2 c fs' bdu' ien' drdy' sim' align' =
      encCtrl2 c fu bu iu du su au)

/-- R96 for control register 3. -/
def Obligations.Ctrl3OptionsCompose : Prop :=
  encCtrl3 .ckInt .ddOff .ffOff .fdsOff .hpc512 = 0x00#8 ∧
  (∀ (eck eck' eu : Eck) (hpdd hpdd' du : Hpdd) (hpff hpff' hu : Hpff) (fds fds' fu : Fds) (cfs cfs' cu : Cfs),
    ((eck = .ckInt ∧ eu = eck') ∨ (eck' = .ckInt ∧ eu = eck)) →
    ((hpdd = .ddOff ∧ du = hpdd') ∨ (hpdd' = .ddOff ∧ du = hpdd)) →
    ((hpff = .ffOff ∧ hu = hpff') ∨ (hpff' = .ffOff ∧ hu = hpff)) →
    ((fds = .fdsOff ∧ fu = fds') ∨ (fds' = .fdsOff ∧ fu = fds)) →
    ((cfs = .hpc512 ∧ cu = cfs') ∨ (cfs' = .hpc512 ∧ cu = cfs)) →
    encCtrl3 eck hpdd hpff fds cfs ||| encCtrl3 eck' hpdd' hpff' fds' cfs' = encCtrl3 eu du hu fu cu)

/-- Each encoder has an inverse on its image, with the domains that the spec gives (an inference it marks as its own,
R97). Under `P12` and `P16` the absent operand reads as 0, notes/assumptions/9.md. -/
def Obligations.ControlDecodersInvertEncoders : Prop :=
  (∀ (p : Pwr) (r : Rate), decCtrl1 (encCtrl1 p r) = some (p, r)) ∧
  (∀ (v : Byte) (p : Pwr) (r : Rate), decCtrl1 v = some (p, r) → encCtrl1 p r = v) ∧
  (∀ v : Byte, (decCtrl1 v).isSome ↔
    v.extractLsb' 7 1 = 0#1 ∧ v.extractLsb' 3 1 = 0#1 ∧ v.extractLsb' 0 3 = 7#3) ∧
  (∀ (c : Config) (fs : Fs) (bdu : Bdu) (ien : Ien) (drdy : Drdy) (sim : Sim) (align : Align),
    c.profile.admits align = true →
    decCtrl2 c (encCtrl2 c fs bdu ien drdy sim align) = some (fs, bdu, ien, drdy, sim, align)) ∧
  (∀ (c : Config) (v : Byte) (fs : Fs) (bdu : Bdu) (ien : Ien) (drdy : Drdy) (sim : Sim) (align : Align),
    decCtrl2 c v = some (fs, bdu, ien, drdy, sim, align) → encCtrl2 c fs bdu ien drdy sim align = v) ∧
  (∀ (c : Config) (v : Byte), (decCtrl2 c v).isSome ↔
    (∀ k, (k = 5 ∨ k = 4 ∨ k = 0) → k ≠ c.alignBit.position → v.getLsbD k = false) ∧
      (c.profile = .p12 → v.getLsbD c.alignBit.position = false) ∧
      (c.profile = .p16 → v.getLsbD c.alignBit.position = true)) ∧
  (∀ (eck : Eck) (hpdd : Hpdd) (hpff : Hpff) (fds : Fds) (cfs : Cfs),
    decCtrl3 (encCtrl3 eck hpdd hpff fds cfs) = some (eck, hpdd, hpff, fds, cfs)) ∧
  (∀ (v : Byte) (eck : Eck) (hpdd : Hpdd) (hpff : Hpff) (fds : Fds) (cfs : Cfs),
    decCtrl3 v = some (eck, hpdd, hpff, fds, cfs) → encCtrl3 eck hpdd hpff fds cfs = v) ∧
  (∀ v : Byte, (decCtrl3 v).isSome ↔ v.extractLsb' 2 2 = 0#2)

/-- R98: the bits that no setter sets, and the three axis-enable bits that `SETCTRL1` always sets. -/
def Obligations.EncodersNeverSetUnusedBits : Prop :=
  (∀ (p : Pwr) (r : Rate), encCtrl1 p r &&& 0x8F#8 = 0x07#8) ∧
  (∀ (c : Config) (fs : Fs) (bdu : Bdu) (ien : Ien) (drdy : Drdy) (sim : Sim) (align : Align) (k : Nat),
    (k = 5 ∨ k = 4 ∨ k = 0) → k ≠ c.alignBit.position →
    (encCtrl2 c fs bdu ien drdy sim align).getLsbD k = false) ∧
  (∀ (eck : Eck) (hpdd : Hpdd) (hpff : Hpff) (fds : Fds) (cfs : Cfs),
    encCtrl3 eck hpdd hpff fds cfs &&& 0x0C#8 = 0x00#8)

/-- R101: both decoders give `high ++ low`. -/
def Obligations.BothDecodersGiveHighThenLow : Prop :=
  ∀ h l : Byte, decDiscrete h l = decBurst l h ∧ decBurst l h = (h ++ l : BitVec (8 + 8))

/-- R102: splitting a 16-bit value and decoding it gives it back on either path, and the other way round. -/
def Obligations.SampleRoundTrip : Prop :=
  (∀ v : Word, decDiscrete (v.extractLsb' 8 8) (v.extractLsb' 0 8) = v ∧
    decBurst (v.extractLsb' 0 8) (v.extractLsb' 8 8) = v) ∧
  (∀ h l : Byte, (decDiscrete h l).extractLsb' 8 8 = h ∧ (decDiscrete h l).extractLsb' 0 8 = l ∧
    (decBurst l h).extractLsb' 8 8 = h ∧ (decBurst l h).extractLsb' 0 8 = l)

/-- R103: the integer a sample denotes, its range, its sign, and the corner values. -/
def Obligations.SampleDenotesInteger : Prop :=
  (∀ h l : Byte, (decDiscrete h l).toInt = 256 * h.toInt + l.toNat ∧
    -32768 ≤ (decDiscrete h l).toInt ∧ (decDiscrete h l).toInt ≤ 32767 ∧
    ((decDiscrete h l).toInt < 0 ↔ h.getLsbD 7 = true)) ∧
  (decDiscrete 0x00#8 0x00#8).toInt = 0 ∧ (decDiscrete 0x7F#8 0xFF#8).toInt = 32767 ∧
  (decDiscrete 0x80#8 0x00#8).toInt = -32768 ∧ (decDiscrete 0xFF#8 0xFF#8).toInt = -1 ∧
  (decDiscrete 0x00#8 0xFF#8).toInt = 255

/-- R105: the identity comparison succeeds on one byte only. -/
def Obligations.IdentityMatchesOneByte : Prop :=
  (∀ b : Byte, (idMatch b = 1#1 ↔ b = 0x3A#8) ∧ (idMatch b = 0#1 ↔ b ≠ 0x3A#8)) ∧
  idMatch 0x00#8 = 0#1 ∧ idMatch 0xFF#8 = 0#1

/-! ### Command words (30_encoding.md) -/

/-- Decode and encode agree: every well-formed operation of every build, with every operand. -/
def Obligations.DecodeOfEncode : Prop :=
  ∀ (p : Ctrl2Profile) (i : Instr), i.wf p = true → decode p (encode i) = .instr i

/-- Every word that the decoder accepts is the one encoding of the operation it reads. -/
def Obligations.AcceptedWordIsItsEncoding : Prop :=
  ∀ (p : Ctrl2Profile) (w : Word) (i : Instr), decode p w = .instr i → i.wf p = true ∧ encode i = w

/-- R72: the rows of the opcode table (match, mask by profile, `XFER`s, events), and which row a word selects. -/
def Obligations.WordSelectsItsTableRow : Prop :=
  (∀ (c : Config) (i : Instr),
    (rowMatch i, rowMask c.profile i, (scriptCalls c i).countP (fun k => k ≠ .sel ∧ k ≠ .desel),
        (script c i).length) =
      match i with
      | .getid => (0x1000#16, 0xFFFF#16, 2, 4)
      | .beginCheck => (0x2000#16, 0xFFFF#16, 2, 4)
      | .setctrl1 _ _ => (0x3000#16, 0xFFF8#16, 2, 4)
      | .setctrl2 _ _ _ _ _ _ => (0x4000#16, if c.profile = .palign then 0xFFC0#16 else 0xFFC1#16, 2, 4)
      | .setctrl3 _ _ _ _ _ => (0x5000#16, 0xFFC0#16, 2, 4)
      | .rstfilt => (0x6000#16, 0xFFFF#16, 2, 4)
      | .rdstatus => (0x7000#16, 0xFFFF#16, 2, 4)
      | .rdh _ => (0x8000#16, 0xFFFC#16, 2, 4)
      | .rdl _ => (0x9000#16, 0xFFFC#16, 2, 4)
      | .rdd _ => (0xA000#16, 0xFFFC#16, 4, 8)
      | .rdb _ => (0xB000#16, 0xFFFC#16, 3, 5)) ∧
  (∀ (p : Ctrl2Profile) (w : Word) (i : Instr), decode p w = .instr i →
    w &&& rowMask p i = rowMatch i ∧ (0x8#4 ≤ i.op → w.extractLsb' 0 2 ≠ 3#2)) ∧
  (∀ (p : Ctrl2Profile) (w : Word) (j : Instr), w &&& rowMask p j = rowMatch j →
    (0x8#4 ≤ j.op → w.extractLsb' 0 2 ≠ 3#2) → ∃ i, decode p w = .instr i ∧ i.op = j.op)

/-- R75: `refuse_code` in its order; it is 0 exactly on the words that name an operation. -/
def Obligations.RefuseCodeInOrder : Prop :=
  (∀ (p : Ctrl2Profile) (w : Word),
    refuseCode p w =
      if opField w = 0x0#4 ∨ 0xC#4 ≤ opField w then 1#2
      else if w.extractLsb' 0 12 &&& reservedMask p (opField w) ≠ 0#12 then 2#2
      else if 0x8#4 ≤ opField w ∧ opField w ≤ 0xB#4 ∧ w.extractLsb' 0 2 = 3#2 then 3#2
      else 0#2) ∧
  (∀ p : Ctrl2Profile,
    reservedMask p 0x1#4 = 0xFFF#12 ∧ reservedMask p 0x2#4 = 0xFFF#12 ∧ reservedMask p 0x3#4 = 0xFF8#12 ∧
    (p = .palign → reservedMask p 0x4#4 = 0xFC0#12) ∧ (p ≠ .palign → reservedMask p 0x4#4 = 0xFC1#12) ∧
    reservedMask p 0x5#4 = 0xFC0#12 ∧ reservedMask p 0x6#4 = 0xFFF#12 ∧ reservedMask p 0x7#4 = 0xFFF#12 ∧
    reservedMask p 0x8#4 = 0xFFC#12 ∧ reservedMask p 0x9#4 = 0xFFC#12 ∧ reservedMask p 0xA#4 = 0xFFC#12 ∧
    reservedMask p 0xB#4 = 0xFFC#12) ∧
  (∀ (p : Ctrl2Profile) (w : Word), refuseCode p w = 0#2 ↔ ∃ i : Instr, i.wf p = true ∧ encode i = w)

/-- How many words name an operation. The spec marks the counts as its inference from R72 to R74. -/
def Obligations.CountOfAcceptedWords : Prop :=
  (∃ l : List Word, l.Nodup ∧ l.length = 152 ∧ ∀ w, w ∈ l ↔ refuseCode .palign w = 0#2) ∧
  (∃ l : List Word, l.Nodup ∧ l.length = 120 ∧ ∀ w, w ∈ l ↔ refuseCode .p12 w = 0#2) ∧
  (∃ l : List Word, l.Nodup ∧ l.length = 120 ∧ ∀ w, w ∈ l ↔ refuseCode .p16 w = 0#2)

/-- Words written out from the encodings of 30_encoding.md and 95_test_vectors.md decode to what they stand for. -/
def Obligations.DecodeOfWrittenWords : Prop :=
  decode .palign 0x1000#16 = .instr .getid ∧ decode .palign 0x3005#16 = .instr (.setctrl1 .on .hz160) ∧
  decode .palign 0x4015#16 = .instr (.setctrl2 .g2 .latch .intOff .drdyOn .wire4 .l16) ∧
  decode .palign 0x5006#16 = .instr (.setctrl3 .ckInt .ddOff .ffOff .fdsOn .hpc2048) ∧
  decode .palign 0xB002#16 = .instr (.rdb .z) ∧ decode .palign 0xF0FF#16 = .refused .badOp ∧
  decode .palign 0x8103#16 = .refused .badReserved ∧ decode .palign 0x8003#16 = .refused .badAxis ∧
  decode .p12 0x4001#16 = .refused .badReserved

/-- R74, R79: the profile changes the decoding of the `SETCTRL2` words whose bits 11:6 are 0 and whose bit 0 is 1, which
are operations under `PALIGN` and refused under `P12` and `P16`, and of no other word. -/
def Obligations.ProfileChangesOnlySetctrl2 : Prop :=
  (∀ (p q : Ctrl2Profile) (w : Word),
    (opField w ≠ 0x4#4 ∨ w.extractLsb' 6 6 ≠ 0#6 ∨ w.extractLsb' 0 1 = 0#1) → decode p w = decode q w) ∧
  (∀ w : Word, opField w = 0x4#4 → w.extractLsb' 6 6 = 0#6 → w.extractLsb' 0 1 = 1#1 →
    (∃ i, decode .palign w = .instr i) ∧ decode .p12 w = .refused .badReserved ∧
      decode .p16 w = .refused .badReserved)

/-- The assembler inverts the listing, and its words are the encoder's (R83, R84). -/
def Obligations.AssembleOfListing : Prop :=
  ∀ (p : Ctrl2Profile) (i : Instr), i.wf p = true → assembleLine p none (i.listing p) = some (encode i)

/-- R81, R46: the calls of an operation are whole transactions, and the flags of their address bytes are `00` in a write,
`10` in a one-byte read and in the filter-reset access, `11` in a burst read, never `01`. -/
def Obligations.OperationsAreWholeTransactions : Prop :=
  (∀ (c : Config) (i : Instr), scriptCalls c i = (transactions c i).flatMap (Txn.calls c)) ∧
  (∀ (c : Config) (i : Instr) (x : Txn), x ∈ transactions c i →
    (x.addressByte c).extractLsb' 6 2 =
        (match x with
        | .write _ _ => 0#2
        | .read _ => 2#2
        | .burst _ => 3#2
        | .resetFilter => 2#2) ∧
      (x.addressByte c).extractLsb' 6 2 ≠ 1#2)

/-- R89: the address bytes of the default build. The numbers rest on the spec's own default addresses. -/
def Obligations.DefaultAddressBytes : Prop :=
  ∀ i : Instr, (transactions Config.standard i).map (Txn.addressByte Config.standard) =
    match i with
    | .getid => [0x8F#8]
    | .beginCheck => [0x8F#8]
    | .setctrl1 _ _ => [0x20#8]
    | .setctrl2 _ _ _ _ _ _ => [0x21#8]
    | .setctrl3 _ _ _ _ _ => [0x22#8]
    | .rstfilt => [0xA3#8]
    | .rdstatus => [0xA7#8]
    | .rdh .x => [0xA9#8]
    | .rdh .y => [0xAB#8]
    | .rdh .z => [0xAD#8]
    | .rdl .x => [0xA8#8]
    | .rdl .y => [0xAA#8]
    | .rdl .z => [0xAC#8]
    | .rdd .x => [0xA9#8, 0xA8#8]
    | .rdd .y => [0xAB#8, 0xAA#8]
    | .rdd .z => [0xAD#8, 0xAC#8]
    | .rdb .x => [0xE8#8]
    | .rdb .y => [0xEA#8]
    | .rdb .z => [0xEC#8]

/-! ### The operations (41_config.md, 42_identity_status.md, 43_sample.md)

Each statement gives the script and the words of the operation, and the whole state after it from an idle block, for
every transport that serves its calls and for every byte that transport returns. -/

/-- R108. -/
def Obligations.Setctrl1WritesItsByte : Prop :=
  (∀ (c : Config) (pwr : Pwr) (rate : Rate), script c (.setctrl1 pwr rate) =
    [.sel, .xfer (addrByte c.addrCtrl1 0#1 0#1), .xfer (encCtrl1 pwr rate), .desel]) ∧
  (∀ (p : Ctrl2Profile) (w : Word), opField w = 0x3#4 →
    decode p w = if w.extractLsb' 3 9 = 0#9
      then .instr (.setctrl1 (Pwr.ofCode (w.extractLsb' 2 1)) (Rate.ofCode (w.extractLsb' 0 2)))
      else .refused .badReserved) ∧
  (∀ (pwr : Pwr) (rate : Rate) (s : State) (x0 x1 x2 x3 : Byte) (t : Transport), s.busy = false →
    s.transport.serve [.sel, .xfer (addrByte s.cfg.addrCtrl1 0#1 0#1), .xfer (encCtrl1 pwr rate), .desel] =
      some ([x0, x1, x2, x3], t) →
    exec (.setctrl1 pwr rate) s = .next { s with
      seq := 0#3
      sel := false
      transport := t
      trace := s.trace ++
        [.sel, .xfer (addrByte s.cfg.addrCtrl1 0#1 0#1) x1, .xfer (encCtrl1 pwr rate) x2, .desel] })

/-- R109. -/
def Obligations.Setctrl2WritesItsByte : Prop :=
  (∀ (c : Config) (fs : Fs) (bdu : Bdu) (ien : Ien) (drdy : Drdy) (sim : Sim) (align : Align),
    script c (.setctrl2 fs bdu ien drdy sim align) =
    [.sel, .xfer (addrByte c.addrCtrl2 0#1 0#1), .xfer (encCtrl2 c fs bdu ien drdy sim align), .desel]) ∧
  (∀ (p : Ctrl2Profile) (w : Word), opField w = 0x4#4 →
    decode p w = if w.extractLsb' 6 6 = 0#6 ∧ (p = .palign ∨ w.extractLsb' 0 1 = 0#1)
      then .instr (.setctrl2 (Fs.ofCode (w.extractLsb' 5 1)) (Bdu.ofCode (w.extractLsb' 4 1))
        (Ien.ofCode (w.extractLsb' 3 1)) (Drdy.ofCode (w.extractLsb' 2 1)) (Sim.ofCode (w.extractLsb' 1 1))
        (Align.ofCode (w.extractLsb' 0 1)))
      else .refused .badReserved) ∧
  (∀ (fs : Fs) (bdu : Bdu) (ien : Ien) (drdy : Drdy) (sim : Sim) (align : Align) (s : State)
      (x0 x1 x2 x3 : Byte) (t : Transport), s.busy = false →
    s.transport.serve [.sel, .xfer (addrByte s.cfg.addrCtrl2 0#1 0#1),
      .xfer (encCtrl2 s.cfg fs bdu ien drdy sim align), .desel] = some ([x0, x1, x2, x3], t) →
    exec (.setctrl2 fs bdu ien drdy sim align) s = .next { s with
      seq := 0#3
      sel := false
      transport := t
      trace := s.trace ++
        [.sel, .xfer (addrByte s.cfg.addrCtrl2 0#1 0#1) x1, .xfer (encCtrl2 s.cfg fs bdu ien drdy sim align) x2,
          .desel] })

/-- R110. -/
def Obligations.Setctrl3WritesItsByte : Prop :=
  (∀ (c : Config) (eck : Eck) (hpdd : Hpdd) (hpff : Hpff) (fds : Fds) (cfs : Cfs),
    script c (.setctrl3 eck hpdd hpff fds cfs) =
    [.sel, .xfer (addrByte c.addrCtrl3 0#1 0#1), .xfer (encCtrl3 eck hpdd hpff fds cfs), .desel]) ∧
  (∀ (p : Ctrl2Profile) (w : Word), opField w = 0x5#4 →
    decode p w = if w.extractLsb' 6 6 = 0#6
      then .instr (.setctrl3 (Eck.ofCode (w.extractLsb' 5 1)) (Hpdd.ofCode (w.extractLsb' 4 1))
        (Hpff.ofCode (w.extractLsb' 3 1)) (Fds.ofCode (w.extractLsb' 2 1)) (Cfs.ofCode (w.extractLsb' 0 2)))
      else .refused .badReserved) ∧
  (∀ (eck : Eck) (hpdd : Hpdd) (hpff : Hpff) (fds : Fds) (cfs : Cfs) (s : State) (x0 x1 x2 x3 : Byte)
      (t : Transport), s.busy = false →
    s.transport.serve [.sel, .xfer (addrByte s.cfg.addrCtrl3 0#1 0#1), .xfer (encCtrl3 eck hpdd hpff fds cfs),
      .desel] = some ([x0, x1, x2, x3], t) →
    exec (.setctrl3 eck hpdd hpff fds cfs) s = .next { s with
      seq := 0#3
      sel := false
      transport := t
      trace := s.trace ++
        [.sel, .xfer (addrByte s.cfg.addrCtrl3 0#1 0#1) x1, .xfer (encCtrl3 eck hpdd hpff fds cfs) x2, .desel] })

/-- R111. What `HB` and `LB` hold after the completion is no part of the rule: R41 gives them no value there; the
model keeps the captured bytes (DESIGN CHOICE, notes/assumptions/12.md, unsafe). -/
def Obligations.GetidReturnsRawIdentity : Prop :=
  (∀ (c : Config), script c .getid =
    [.sel, .xfer (addrByte c.addrWhoAmI 1#1 0#1), .captureLow c.filler, .desel]) ∧
  (∀ (p : Ctrl2Profile) (w : Word), opField w = 0x1#4 →
    decode p w = if w = 0x1000#16 then .instr .getid else .refused .badReserved) ∧
  (∀ (s : State) (x0 x1 b x3 : Byte) (t : Transport), s.busy = false →
    s.transport.serve [.sel, .xfer (addrByte s.cfg.addrWhoAmI 1#1 0#1), .xfer s.cfg.filler, .desel] =
      some ([x0, x1, b, x3], t) →
    exec .getid s = .next { s with
      seq := 0#3
      sel := false
      lb := b
      res := b.setWidth 16
      resv := true
      transport := t
      trace := s.trace ++
        [.sel, .xfer (addrByte s.cfg.addrWhoAmI 1#1 0#1) x1, .xfer s.cfg.filler b, .desel] })

/-- R112: the events are `GETID`'s, the result is a boolean, and a mismatch sets no flag. What `HB` and `LB` hold
after the completion is no part of the rule: R41 gives them no value there; the model keeps the captured bytes (DESIGN
CHOICE, notes/assumptions/12.md, unsafe). -/
def Obligations.BeginReportsIdentityMatch : Prop :=
  (∀ (c : Config), script c .beginCheck =
    [.sel, .xfer (addrByte c.addrWhoAmI 1#1 0#1), .captureLow c.filler, .desel]) ∧
  (∀ (p : Ctrl2Profile) (w : Word), opField w = 0x2#4 →
    decode p w = if w = 0x2000#16 then .instr .beginCheck else .refused .badReserved) ∧
  (∀ (s : State) (x0 x1 b x3 : Byte) (t : Transport), s.busy = false →
    s.transport.serve [.sel, .xfer (addrByte s.cfg.addrWhoAmI 1#1 0#1), .xfer s.cfg.filler, .desel] =
      some ([x0, x1, b, x3], t) →
    exec .beginCheck s = .next { s with
      seq := 0#3
      sel := false
      lb := b
      res := if b = 0x3A#8 then 0x0001#16 else 0x0000#16
      resv := true
      transport := t
      trace := s.trace ++
        [.sel, .xfer (addrByte s.cfg.addrWhoAmI 1#1 0#1) x1, .xfer s.cfg.filler b, .desel] })

/-- R113. What `HB` and `LB` hold after the completion is no part of the rule: R41 gives them no value there; the
model keeps the captured bytes (DESIGN CHOICE, notes/assumptions/12.md, unsafe). -/
def Obligations.RdstatusReturnsRawStatus : Prop :=
  (∀ (c : Config), script c .rdstatus =
    [.sel, .xfer (addrByte c.addrStatus 1#1 0#1), .captureLow c.filler, .desel]) ∧
  (∀ (p : Ctrl2Profile) (w : Word), opField w = 0x7#4 →
    decode p w = if w = 0x7000#16 then .instr .rdstatus else .refused .badReserved) ∧
  (∀ (s : State) (x0 x1 b x3 : Byte) (t : Transport), s.busy = false →
    s.transport.serve [.sel, .xfer (addrByte s.cfg.addrStatus 1#1 0#1), .xfer s.cfg.filler, .desel] =
      some ([x0, x1, b, x3], t) →
    exec .rdstatus s = .next { s with
      seq := 0#3
      sel := false
      lb := b
      res := b.setWidth 16
      resv := true
      transport := t
      trace := s.trace ++
        [.sel, .xfer (addrByte s.cfg.addrStatus 1#1 0#1) x1, .xfer s.cfg.filler b, .desel] })

/-- R114: the read flag is set, the data byte is `0x00` whatever `FILLER` is, and the answer reaches no register. -/
def Obligations.RstfiltKeepsReadFraming : Prop :=
  (∀ (c : Config), script c .rstfilt =
    [.sel, .xfer (addrByte c.addrHpReset 1#1 0#1), .xfer 0x00#8, .desel]) ∧
  (∀ (p : Ctrl2Profile) (w : Word), opField w = 0x6#4 →
    decode p w = if w = 0x6000#16 then .instr .rstfilt else .refused .badReserved) ∧
  (∀ (s : State) (x0 x1 x2 x3 : Byte) (t : Transport), s.busy = false →
    s.transport.serve [.sel, .xfer (addrByte s.cfg.addrHpReset 1#1 0#1), .xfer 0x00#8, .desel] =
      some ([x0, x1, x2, x3], t) →
    exec .rstfilt s = .next { s with
      seq := 0#3
      sel := false
      transport := t
      trace := s.trace ++
        [.sel, .xfer (addrByte s.cfg.addrHpReset 1#1 0#1) x1, .xfer 0x00#8 x2, .desel] })

/-- R116: the high byte is captured in `HB` and returned zero-extended, not sign-extended. What `HB` and `LB` hold
after the completion is no part of the rule: R41 gives them no value there; the model keeps the captured bytes (DESIGN
CHOICE, notes/assumptions/12.md, unsafe). -/
def Obligations.RdhReturnsHighByte : Prop :=
  (∀ (c : Config) (a : Axis), script c (.rdh a) =
    [.sel, .xfer (addrByte (c.outH a) 1#1 0#1), .captureHigh c.filler, .desel]) ∧
  (∀ (p : Ctrl2Profile) (w : Word), opField w = 0x8#4 →
    decode p w = if w.extractLsb' 2 10 ≠ 0#10 then .refused .badReserved
      else match Axis.ofCode (w.extractLsb' 0 2) with
        | some a => .instr (.rdh a)
        | none => .refused .badAxis) ∧
  (∀ (a : Axis) (s : State) (x0 x1 b x3 : Byte) (t : Transport), s.busy = false →
    s.transport.serve [.sel, .xfer (addrByte (s.cfg.outH a) 1#1 0#1), .xfer s.cfg.filler, .desel] =
      some ([x0, x1, b, x3], t) →
    exec (.rdh a) s = .next { s with
      seq := 0#3
      sel := false
      hb := b
      res := b.setWidth 16
      resv := true
      transport := t
      trace := s.trace ++
        [.sel, .xfer (addrByte (s.cfg.outH a) 1#1 0#1) x1, .xfer s.cfg.filler b, .desel] })

/-- R117. What `HB` and `LB` hold after the completion is no part of the rule: R41 gives them no value there; the
model keeps the captured bytes (DESIGN CHOICE, notes/assumptions/12.md, unsafe). -/
def Obligations.RdlReturnsLowByte : Prop :=
  (∀ (c : Config) (a : Axis), script c (.rdl a) =
    [.sel, .xfer (addrByte (c.outL a) 1#1 0#1), .captureLow c.filler, .desel]) ∧
  (∀ (p : Ctrl2Profile) (w : Word), opField w = 0x9#4 →
    decode p w = if w.extractLsb' 2 10 ≠ 0#10 then .refused .badReserved
      else match Axis.ofCode (w.extractLsb' 0 2) with
        | some a => .instr (.rdl a)
        | none => .refused .badAxis) ∧
  (∀ (a : Axis) (s : State) (x0 x1 b x3 : Byte) (t : Transport), s.busy = false →
    s.transport.serve [.sel, .xfer (addrByte (s.cfg.outL a) 1#1 0#1), .xfer s.cfg.filler, .desel] =
      some ([x0, x1, b, x3], t) →
    exec (.rdl a) s = .next { s with
      seq := 0#3
      sel := false
      lb := b
      res := b.setWidth 16
      resv := true
      transport := t
      trace := s.trace ++
        [.sel, .xfer (addrByte (s.cfg.outL a) 1#1 0#1) x1, .xfer s.cfg.filler b, .desel] })

/-- R118: two transactions, the high byte strictly first; `RES` is `high ++ low`, unmasked. What `HB` and `LB` hold
after the completion is no part of the rule: R41 gives them no value there; the model keeps the captured bytes (DESIGN
CHOICE, notes/assumptions/12.md, unsafe). -/
def Obligations.RddReadsHighThenLow : Prop :=
  (∀ (c : Config) (a : Axis), script c (.rdd a) =
    [.sel, .xfer (addrByte (c.outH a) 1#1 0#1), .captureHigh c.filler, .desel,
      .sel, .xfer (addrByte (c.outL a) 1#1 0#1), .captureLow c.filler, .desel]) ∧
  (∀ (a : Axis) (s t : State), exec (.rdd a) s = .next t → t.busy = true → t.res = s.res ∧ t.resv = s.resv) ∧
  (∀ (p : Ctrl2Profile) (w : Word), opField w = 0xA#4 →
    decode p w = if w.extractLsb' 2 10 ≠ 0#10 then .refused .badReserved
      else match Axis.ofCode (w.extractLsb' 0 2) with
        | some a => .instr (.rdd a)
        | none => .refused .badAxis) ∧
  (∀ (a : Axis) (s : State) (x0 x1 h x3 x4 x5 l x7 : Byte) (t : Transport), s.busy = false →
    s.transport.serve
      [.sel, .xfer (addrByte (s.cfg.outH a) 1#1 0#1), .xfer s.cfg.filler, .desel,
        .sel, .xfer (addrByte (s.cfg.outL a) 1#1 0#1), .xfer s.cfg.filler, .desel] =
      some ([x0, x1, h, x3, x4, x5, l, x7], t) →
    exec (.rdd a) s = .next { s with
      seq := 0#3
      sel := false
      hb := h
      lb := l
      res := (h ++ l : BitVec (8 + 8))
      resv := true
      transport := t
      trace := s.trace ++
        [.sel, .xfer (addrByte (s.cfg.outH a) 1#1 0#1) x1, .xfer s.cfg.filler h, .desel,
          .sel, .xfer (addrByte (s.cfg.outL a) 1#1 0#1) x5, .xfer s.cfg.filler l, .desel] })

/-- R119: one transaction from the low byte's address with both flags set; `RES` is `high ++ low`. What `HB` and `LB`
hold after the completion is no part of the rule: R41 gives them no value there; the model keeps the captured bytes
(DESIGN CHOICE, notes/assumptions/12.md, unsafe). -/
def Obligations.RdbReadsBurst : Prop :=
  (∀ (c : Config) (a : Axis), script c (.rdb a) =
    [.sel, .xfer (addrByte (c.outL a) 1#1 1#1), .captureLow c.filler, .captureHigh c.filler, .desel]) ∧
  (∀ (a : Axis) (s t : State), exec (.rdb a) s = .next t → t.busy = true → t.res = s.res ∧ t.resv = s.resv) ∧
  (∀ (p : Ctrl2Profile) (w : Word), opField w = 0xB#4 →
    decode p w = if w.extractLsb' 2 10 ≠ 0#10 then .refused .badReserved
      else match Axis.ofCode (w.extractLsb' 0 2) with
        | some a => .instr (.rdb a)
        | none => .refused .badAxis) ∧
  (∀ (a : Axis) (s : State) (x0 x1 l h x4 : Byte) (t : Transport), s.busy = false →
    s.transport.serve
      [.sel, .xfer (addrByte (s.cfg.outL a) 1#1 1#1), .xfer s.cfg.filler, .xfer s.cfg.filler, .desel] =
      some ([x0, x1, l, h, x4], t) →
    exec (.rdb a) s = .next { s with
      seq := 0#3
      sel := false
      hb := h
      lb := l
      res := (h ++ l : BitVec (8 + 8))
      resv := true
      transport := t
      trace := s.trace ++
        [.sel, .xfer (addrByte (s.cfg.outL a) 1#1 1#1) x1, .xfer s.cfg.filler l, .xfer s.cfg.filler h, .desel] })

/-! ### Frames of all operations -/

/-- What no operation writes, complete or not: the taken word, the refusal flags, the configuration, the host's side.
`RES` and `RESV` keep their values unless the operation returns a value and has completed (R21, R31, R107). -/
def Obligations.OperationsLeaveTheRestUnchanged : Prop :=
  ∀ (i : Instr) (s t : State), exec i s = .next t →
    t.cmd = s.cmd ∧ t.err = s.err ∧ t.errc = s.errc ∧ t.cfg = s.cfg ∧ t.host = s.host ∧ t.reads = s.reads ∧
    (returnsValue i = false ∨ t.busy = true → t.res = s.res ∧ t.resv = s.resv) ∧
    (t.resv = false → s.resv = false)

/-- On the reference device a setter writes one register, the whole of it, and leaves every other one alone (20_memory.md
R47, R63, R66; 70_reset_and_hazards.md R147). -/
def Obligations.SettersWriteOneDeviceRegister : Prop :=
  ∀ (s : State) (d : RefDevice), s.busy = false → s.transport = .reference d → Memory.wf d.reg = true →
    (∀ (pwr : Pwr) (rate : Rate), ∃ (t : State) (d' : RefDevice), exec (.setctrl1 pwr rate) s = .next t ∧
      t.busy = false ∧ t.transport = .reference d' ∧ Memory.read d'.reg s.cfg.addrCtrl1.toNat = encCtrl1 pwr rate ∧
      ∀ k, k ≠ s.cfg.addrCtrl1.toNat → Memory.read d'.reg k = Memory.read d.reg k) ∧
    (∀ (fs : Fs) (bdu : Bdu) (ien : Ien) (drdy : Drdy) (sim : Sim) (align : Align),
      ∃ (t : State) (d' : RefDevice), exec (.setctrl2 fs bdu ien drdy sim align) s = .next t ∧
      t.busy = false ∧ t.transport = .reference d' ∧
      Memory.read d'.reg s.cfg.addrCtrl2.toNat = encCtrl2 s.cfg fs bdu ien drdy sim align ∧
      ∀ k, k ≠ s.cfg.addrCtrl2.toNat → Memory.read d'.reg k = Memory.read d.reg k) ∧
    (∀ (eck : Eck) (hpdd : Hpdd) (hpff : Hpff) (fds : Fds) (cfs : Cfs),
      ∃ (t : State) (d' : RefDevice), exec (.setctrl3 eck hpdd hpff fds cfs) s = .next t ∧
      t.busy = false ∧ t.transport = .reference d' ∧
      Memory.read d'.reg s.cfg.addrCtrl3.toNat = encCtrl3 eck hpdd hpff fds cfs ∧
      ∀ k, k ≠ s.cfg.addrCtrl3.toNat → Memory.read d'.reg k = Memory.read d.reg k)

/-- On the reference device the reads and the filter reset leave every register as it was (20_memory.md R48 to R50,
R66). -/
def Obligations.ReadsLeaveDeviceRegisters : Prop :=
  ∀ (i : Instr) (s : State) (d : RefDevice), s.busy = false → s.transport = .reference d →
    (returnsValue i = true ∨ i = .rstfilt) →
    ∃ (t : State) (d' : RefDevice), exec i s = .next t ∧ t.busy = false ∧ t.transport = .reference d' ∧
      ∀ k, Memory.read d'.reg k = Memory.read d.reg k

/-- On the reference device, in a valid configuration, both protocols give the pair of registers of the axis, high byte
then low byte (20_memory.md R53, R66; 40_codec_functions.md R101; 00_scope.md R9). -/
def Obligations.BothProtocolsReadTheSameSample : Prop :=
  ∀ (a : Axis) (s : State) (d : RefDevice), s.busy = false → s.transport = .reference d → s.cfg.Valid →
    ∃ t u : State, exec (.rdd a) s = .next t ∧ exec (.rdb a) s = .next u ∧ t.busy = false ∧ u.busy = false ∧
      t.res = u.res ∧
      t.res = (Memory.read d.reg (s.cfg.outH a).toNat ++ Memory.read d.reg (s.cfg.outL a).toNat : BitVec (8 + 8)) ∧
      t.resv = true ∧ u.resv = true

/-! ### The step: take, hold, wait, read, reset (10_state.md, 70_reset_and_hazards.md) -/

/-- A step runs the decoded operation: the offered one when the block is idle, the one in `CMD` when it is busy and the
host waits or passes; and the state that places a table word makes the next step take it. -/
def Obligations.StepRunsTheDecodedOperation : Prop :=
  (∀ (s : State) (w : Word) (rest : List HostEvent) (i : Instr), s.busy = false → s.host = .offer w :: rest →
    decode s.cfg.profile w = .instr i → step s = exec i { s with host := rest, cmd := w }) ∧
  (∀ (s : State) (i : Instr), s.busy = true → s.hostWaits = true → decode s.cfg.profile s.cmd = .instr i →
    step s = exec i s) ∧
  (∀ (s : State) (rest : List HostEvent) (i : Instr), s.busy = true → s.host = .pass :: rest →
    decode s.cfg.profile s.cmd = .instr i → step s = exec i { s with host := rest }) ∧
  (∀ (s : State) (w : Word) (i : Instr), decode s.cfg.profile w = .instr i →
    step (s.withFetchWord 16 w.toNat) = exec i { s with busy := false, seq := 0#3, sel := false, cmd := w })

/-- The host learns that an operation has returned by seeing `BUSY` fall (10_state.md R18): a host that offers a word,
watches `BUSY` and then reads `RES` sees `BUSY = 0` when the operation has completed and not before, and reads its
result. `as` is what the transport answers, as in `WaitingChangesNothingButTime`. -/
def Obligations.HostSeesTheOperationReturn : Prop :=
  ∀ (i : Instr) (s : State) (w : Word) (as tail : List Answer) (d : Nat) (r : Word), s.busy = false →
    s.host = [.offer w, .awaitIdle, .read .res] → decode s.cfg.profile w = .instr i →
    s.transport = .oracle (as ++ tail) d → (as.filterMap answerByte).length = (script s.cfg i).length →
    as.getLast? ≠ some .pending → resultOfBytes i (as.filterMap answerByte) = some r →
    (∀ k, 0 < k → k ≤ as.count .pending →
      ∃ t, Sys2Proof.core.run k s = .next t ∧ t.busy = true ∧ t.host = [.awaitIdle, .read .res] ∧
        t.reads = s.reads) ∧
    ∃ t, Sys2Proof.core.run (as.count .pending + 3) s = .next t ∧ t.busy = false ∧ t.host = [] ∧
      t.reads = s.reads ++ [.busy false, .res (some r)]

/-- R30: a busy block performs entry `SEQ` of the script of the operation that `CMD` names; an entry that is not the last
advances `SEQ` when its call has returned; a call that has not returned leaves the block in that micro-step. The second
answer is "not yet", so that the step ends after one micro-step. -/
def Obligations.MicroStepPerformsItsEntry : Prop :=
  ∀ (i : Instr) (s : State) (rest : List Answer) (d : Nat) (m : MicroOp), s.busy = true → s.hostWaits = true →
    decode s.cfg.profile s.cmd = .instr i → (script s.cfg i)[s.seq.toNat]? = some m →
    (s.transport = .oracle (.pending :: rest) d → step s = .next { s with transport := .oracle rest d }) ∧
    (∀ b : Byte, s.transport = .oracle (.returned b :: .pending :: rest) d →
      s.seq.toNat + 1 < (script s.cfg i).length →
      step s = .next { s with
        seq := s.seq + 1#3
        transport := .oracle rest d
        sel := if m = .sel then true else if m = .desel then false else s.sel
        hb := (match m with
          | .captureHigh _ => b
          | _ => s.hb)
        lb := (match m with
          | .captureLow _ => b
          | _ => s.lb)
        trace := s.trace ++ [m.call.event b] })

/-- The completion (10_state.md R31): when the last entry has returned, the result is written, `SEQ` and `BUSY` are 0,
and the line is released because the last entry is `DESEL`. `HB` and `LB` as before is the model's choice after the
completion, where R41 gives them no value (DESIGN CHOICE, notes/assumptions/12.md, unsafe). -/
def Obligations.LastEntryCompletes : Prop :=
  ∀ (i : Instr) (s : State) (b : Byte) (rest : List Answer) (d : Nat), s.busy = true → s.hostWaits = true →
    decode s.cfg.profile s.cmd = .instr i → s.seq.toNat + 1 = (script s.cfg i).length →
    s.transport = .oracle (.returned b :: rest) d →
    step s = .next { s with
      busy := false
      seq := 0#3
      sel := false
      res := (resultOf i s.hb s.lb).getD s.res
      resv := s.resv || returnsValue i
      transport := .oracle rest d
      trace := s.trace ++ [.desel] }

/-- R16: an offer is taken only when the block is idle; while it is busy the offer is held and has no effect. -/
def Obligations.OfferIsHeldWhileBusy : Prop :=
  (∀ (s : State) (w : Word) (rest : List HostEvent), s.busy = true → s.host = .offer w :: rest →
    step s =
      match step { s with host := [] } with
      | .next t => .next { t with host := .offer w :: rest }
      | .fault f => .fault f
      | .refused r => .refused r) ∧
  (∀ (s : State) (w : Word) (rest : List HostEvent), s.busy = false → s.host = .offer w :: rest →
    ∃ t, step s = .next t ∧ t.host = rest ∧ t.cmd = w)

/-- An idle block without an offer waits, and that changes nothing (60_exceptions.md R129). -/
def Obligations.IdleBlockWaits : Prop :=
  ∀ s : State, s.busy = false →
    (s.host = [] → step s = .next s) ∧
    (∀ rest, s.host = .pass :: rest → step s = .next { s with host := rest })

/-- The result port (10_state.md R18, R21): the host reads any of its five outputs at any time and the block does not
notice; `RES` has a value exactly while `RESV = 1`, and a reading of it without one is the host's fault, not a stop. The
outputs are stable while the block is idle, except for the take of a word and `RESET`. -/
def Obligations.HostReadsLevelOutputs : Prop :=
  (∀ (s : State) (o : Output) (rest : List HostEvent), s.host = .read o :: rest →
    step s = .next { s with
      host := rest
      reads := s.reads ++ [match o with
        | .res => .res (if s.resv then some s.res else none)
        | .resv => .resv s.resv
        | .busy => .busy s.busy
        | .err => .err s.err
        | .errc => .errc s.errc] }) ∧
  (∀ s t : State, s.busy = false → s.host.head? ≠ some .reset → (∀ w, s.host.head? ≠ some (.offer w)) →
    step s = .next t → t.resultPort = s.resultPort) ∧
  (∀ (s : State) (rest : List HostEvent), s.host = .read .res :: rest → s.resv = false →
    ∃ t, step s = .next t ∧ t.hostAtFault = true)

/-- R121: a refused word changes `CMD`, `ERR` and `ERRC` and nothing else of the block, and `ERR` rises only so. -/
def Obligations.RefusedWordSetsOnlyTheFlags : Prop :=
  (∀ (s : State) (w : Word) (rest : List HostEvent) (c : RefuseCause), s.busy = false → s.host = .offer w :: rest →
    decode s.cfg.profile w = .refused c →
    step s = .next { s with
      host := rest
      cmd := w
      err := true
      errc := if s.err then s.errc else c.code }) ∧
  (∀ s t : State, step s = .next t → s.err = false → t.err = true →
    ∃ (w : Word) (rest : List HostEvent) (c : RefuseCause), s.busy = false ∧ s.host = .offer w :: rest ∧
      decode s.cfg.profile w = .refused c)

/-- R27, R28: `ERR` and the first cause stay until `RESET`, and no operation depends on them. -/
def Obligations.RefusalFlagsAreSticky : Prop :=
  (State.reset.err = false ∧ State.reset.errc = 0#2) ∧
  (∀ s t : State, step s = .next t → s.err = true → s.host.head? ≠ some .reset →
    t.err = true ∧ t.errc = s.errc) ∧
  (∀ (s : State) (w : Word) (rest : List HostEvent) (c : RefuseCause), s.busy = false → s.host = .offer w :: rest →
    decode s.cfg.profile w = .refused c →
    ∃ t, step s = .next t ∧ t.err = true ∧ (s.err = false → t.errc = c.code)) ∧
  (∀ (s t : State) (rest : List HostEvent), s.host = .reset :: rest → step s = .next t →
    t.err = false ∧ t.errc = 0#2) ∧
  (∀ (s : State) (w : Word) (rest : List HostEvent) (i : Instr) (e : Bool) (k : BitVec 2), s.busy = false →
    s.host = .offer w :: rest → decode s.cfg.profile w = .instr i →
    ∃ t, step s = .next t ∧ step { s with err := e, errc := k } = .next { t with err := e, errc := k })

/-- R135: `RESET` at any time leaves the block idle with no result and no refusal; it alone clears them. What R42
leaves unspecified (`RES`, `CMD`, `HB`, `LB`) is not stated here: `RES` has no readable value. That the transport is
as before also when `RESET` meets a busy block is the model's choice (DESIGN CHOICE, notes/assumptions/10.md, unsafe):
R136 leaves open what a device makes of a truncated transaction. -/
def Obligations.ResetClearsTheBlock : Prop :=
  (∀ (s : State) (rest : List HostEvent), s.host = .reset :: rest →
    ∃ t, step s = .next t ∧ t.busy = false ∧ t.seq = 0#3 ∧ t.sel = false ∧ t.resv = false ∧ t.err = false ∧
      t.errc = 0#2 ∧ t.readRes = none ∧ t.cfg = s.cfg ∧ t.host = rest ∧ t.reads = s.reads ∧
      t.transport = s.transport ∧
      (∀ (w : Word) (rest' : List HostEvent) (i : Instr), rest = .offer w :: rest' →
        decode s.cfg.profile w = .instr i → step t = exec i { t with host := rest', cmd := w })) ∧
  (∀ s t : State, step s = .next t → s.host.head? ≠ some .reset →
    (s.err = true → t.err = true ∧ t.errc = s.errc) ∧ (s.resv = true → t.resv = true))

/-- `RESET` during an operation abandons it: no further event of its script, no result, and a selected line is released,
which the transport sees as a `DESEL` event (70_reset_and_hazards.md R136). -/
def Obligations.ResetAbandonsTheOperation : Prop :=
  ∀ (s : State) (n : Nat), s.busy = true → s.host = [.reset] →
    ∃ t, Sys2Proof.core.run (n + 1) s = .next t ∧ t.busy = false ∧ t.readRes = none ∧ t.reads = s.reads ∧
      t.trace = s.trace ++ (if s.sel then [.desel] else [])

/-- R42: the values of the reset state that the spec gives. -/
def Obligations.ResetStateValues : Prop :=
  State.reset.busy = false ∧ State.reset.seq = 0#3 ∧ State.reset.sel = false ∧ State.reset.resv = false ∧
  State.reset.err = false ∧ State.reset.errc = 0#2 ∧ State.reset.readRes = none ∧ State.reset.trace = [] ∧
  State.reset.cfg = Config.standard ∧ Config.standard.profile = .palign ∧ Config.standard.Valid

/-- A transport call that does not return: `BUSY` stays 1, `SEL`, `SEQ` and everything else keep their values and no word
is taken, for as many steps as the call has not returned; only `RESET` ends it before (70_reset_and_hazards.md R149). -/
def Obligations.UnreturnedCallHangsTheBlock : Prop :=
  ∀ (i : Instr) (s : State) (n d : Nat) (rest : List Answer), s.busy = true →
    s.hostWaits = true → decode s.cfg.profile s.cmd = .instr i →
    s.seq.toNat < (script s.cfg i).length →
    s.transport = .oracle (List.replicate n .pending ++ rest) d →
    Sys2Proof.core.run n s = .next { s with transport := .oracle rest d }

/-! ### Headline results -/

/-- However often the transport makes the block wait, an operation whose every call returns in the end completes, its
events and its result those of the atomic operation on the bytes returned (10_state.md R29 to R31). `as` is what the
transport answers: `n` times "not yet", and one byte for each call, the last answer a byte. -/
def Obligations.WaitingChangesNothingButTime : Prop :=
  ∀ (i : Instr) (s : State) (w : Word) (as tail : List Answer) (d : Nat), s.busy = false → s.host = [.offer w] →
    decode s.cfg.profile w = .instr i → s.transport = .oracle (as ++ tail) d →
    (as.filterMap answerByte).length = (script s.cfg i).length → as.getLast? ≠ some .pending →
    ∃ t, Sys2Proof.core.run (as.count .pending + 1) s = .next t ∧
      t.busy = false ∧ t.seq = 0#3 ∧ t.sel = false ∧ t.cmd = w ∧ t.host = [] ∧ t.transport = .oracle tail d ∧
      t.trace = s.trace ++ eventsOf (scriptCalls s.cfg i) (as.filterMap answerByte) ∧
      (match resultOfBytes i (as.filterMap answerByte) with
      | some r => t.res = r ∧ t.resv = true
      | none => t.res = s.res ∧ t.resv = s.resv)

/-- Statelessness across operations (70_reset_and_hazards.md R146): from two idle blocks that differ in anything but the
configuration and the transport, an operation sends the same bytes in the same events and returns the same value; and
the calls of a completed operation are its script's, whatever the transport answered. -/
def Obligations.OperationsAreStateless : Prop :=
  (∀ (i : Instr) (s u s' u' : State), s.busy = false → u.busy = false → u.cfg = s.cfg → u.transport = s.transport →
    exec i s = .next s' → exec i u = .next u' →
    ∃ new : List Event, s'.trace = s.trace ++ new ∧ u'.trace = u.trace ++ new ∧ u'.transport = s'.transport ∧
      u'.busy = s'.busy ∧ (s'.busy = false → returnsValue i = true → u'.readRes = s'.readRes ∧ s'.resv = true)) ∧
  (∀ (i : Instr) (s s' : State), s.busy = false → exec i s = .next s' → s'.busy = false →
    ∃ new : List Event, s'.trace = s.trace ++ new ∧ new.map Event.call = scriptCalls s.cfg i)

/-- The invariant holds at reset. -/
def Obligations.InvariantAtReset : Prop := State.reset.Inv

/-- Every step keeps the invariant: `SEQ = 0` and the line released whenever the block is idle; `CMD`, `SEQ` and the line
in step with a script whenever it is busy; the events of the whole run well framed; `ERRC` zero exactly while `ERR` is;
the reference device's registers in canonical form (10_state.md R24, R26 to R28). -/
def Obligations.StepKeepsInvariant : Prop :=
  ∀ s t : State, s.Inv → step s = .next t → t.Inv

/-- Under the invariant every step answers a next state: no access, no operation, no identity mismatch, no refusal of a
word and no reading of the host stops the machine (60_exceptions.md R121, R123; 10_state.md R21). -/
def Obligations.NothingStopsTheMachine : Prop :=
  ∀ s : State, s.Inv → ∃ t, step s = .next t

/-- No step changes the configuration, and the events of a run only grow (00_scope.md R8, R14; 70_reset_and_hazards.md
R145). -/
def Obligations.StepKeepsConfigurationAndHistory : Prop :=
  ∀ s t : State, step s = .next t → t.cfg = s.cfg ∧ s.trace <+: t.trace ∧ s.reads <+: t.reads
end

