-- ==== Sys2Proof/Laws/Memory.lean ====
section
/-!
SUPPORT. The laws of the reference device's register space: a read after a write to the same address gives the byte
written, a write leaves every other address alone, and a write keeps the canonical form.
-/

namespace Sys2Proof.Machine

theorem wfFrom_mono {lo lo' : Nat} {m : Memory} (h : Memory.wfFrom lo m = true) (hle : lo' ≤ lo) :
    Memory.wfFrom lo' m = true := by
  cases m with
  | nil => rfl
  | cons c m =>
    simp only [Memory.wfFrom, Bool.and_eq_true, decide_eq_true_eq] at h ⊢
    exact ⟨⟨⟨by omega, h.1.1.2⟩, h.1.2⟩, h.2⟩

/-- Below every listed address the space reads as unlisted. -/
theorem read_of_lt {m : Memory} {lo a : Nat} (h : Memory.wfFrom lo m = true) (ha : a < lo) :
    Memory.read m a = Memory.unlisted := by
  induction m generalizing lo with
  | nil => rfl
  | cons c m ih =>
    simp only [Memory.wfFrom, Bool.and_eq_true, decide_eq_true_eq] at h
    simp only [Memory.read]
    rw [if_neg (by omega)]
    exact ih h.2 (by omega)

theorem read_write_same {m : Memory} {lo a : Nat} (h : Memory.wfFrom lo m = true) (v : Byte) :
    Memory.read (Memory.write m a v) a = v := by
  induction m generalizing lo with
  | nil =>
    by_cases hv : v = Memory.unlisted <;> simp [Memory.write, Memory.read, hv]
  | cons c m ih =>
    simp only [Memory.wfFrom, Bool.and_eq_true, decide_eq_true_eq] at h
    by_cases h1 : a < c.1
    · by_cases hv : v = Memory.unlisted
      · simp only [Memory.write, if_pos h1, if_pos hv, Memory.read]
        rw [if_neg (by omega), hv]
        exact read_of_lt h.2 (by omega)
      · simp [Memory.write, h1, hv, Memory.read]
    · by_cases h2 : a = c.1
      · by_cases hv : v = Memory.unlisted
        · simp only [Memory.write, if_neg h1, if_pos h2, if_pos hv]
          rw [hv]
          exact read_of_lt h.2 (by omega)
        · simp [Memory.write, h2, hv, Memory.read]
      · simp only [Memory.write, if_neg h1, if_neg h2, Memory.read]
        rw [if_neg (Ne.symm h2)]
        exact ih h.2

theorem read_write_other {m : Memory} {lo a b : Nat} (h : Memory.wfFrom lo m = true) (hab : b ≠ a) (v : Byte) :
    Memory.read (Memory.write m a v) b = Memory.read m b := by
  induction m generalizing lo with
  | nil =>
    by_cases hv : v = Memory.unlisted <;> simp [Memory.write, Memory.read, hv, Ne.symm hab]
  | cons c m ih =>
    simp only [Memory.wfFrom, Bool.and_eq_true, decide_eq_true_eq] at h
    by_cases h1 : a < c.1
    · by_cases hv : v = Memory.unlisted
      · simp [Memory.write, h1, hv]
      · simp [Memory.write, h1, hv, Memory.read, Ne.symm hab]
    · by_cases h2 : a = c.1
      · have hcb : ¬ c.1 = b := fun e => hab (by omega)
        by_cases hv : v = Memory.unlisted
        · simp [Memory.write, h2, hv, Memory.read, hcb]
        · simp [Memory.write, h2, hv, Memory.read, hcb]
      · simp only [Memory.write, if_neg h1, if_neg h2, Memory.read, ih h.2]

theorem wfFrom_write {m : Memory} {lo a : Nat} (h : Memory.wfFrom lo m = true) (hlo : lo ≤ a) (ha : a < 64) (v : Byte) :
    Memory.wfFrom lo (Memory.write m a v) = true := by
  induction m generalizing lo with
  | nil =>
    by_cases hv : v = Memory.unlisted
    · simp [Memory.write, hv, Memory.wfFrom]
    · simp [Memory.write, hv, Memory.wfFrom, hlo, ha]
  | cons c m ih =>
    have hc := h
    simp only [Memory.wfFrom, Bool.and_eq_true, decide_eq_true_eq] at h
    by_cases h1 : a < c.1
    · by_cases hv : v = Memory.unlisted
      · simpa [Memory.write, h1, hv] using hc
      · simp only [Memory.write, if_pos h1, if_neg hv, Memory.wfFrom, Bool.and_eq_true, decide_eq_true_eq,
          bne_iff_ne, ne_eq]
        exact ⟨⟨⟨hlo, ha⟩, hv⟩, ⟨⟨⟨by omega, h.1.1.2⟩, by simpa using h.1.2⟩, h.2⟩⟩
    · by_cases h2 : a = c.1
      · by_cases hv : v = Memory.unlisted
        · simp only [Memory.write, if_neg h1, if_pos h2, if_pos hv]
          exact wfFrom_mono h.2 (by omega)
        · simp only [Memory.write, if_neg h1, if_pos h2, if_neg hv, Memory.wfFrom, Bool.and_eq_true,
            decide_eq_true_eq, bne_iff_ne, ne_eq]
          exact ⟨⟨⟨hlo, ha⟩, hv⟩, by rw [h2]; exact h.2⟩
      · simp only [Memory.write, if_neg h1, if_neg h2, Memory.wfFrom, Bool.and_eq_true, decide_eq_true_eq]
        exact ⟨h.1, ih h.2 (by omega)⟩

/-- The one operation that writes the register space keeps its canonical form, at every address of the space. -/
theorem write_wf {m : Memory} (h : m.wf = true) (a : Addr) (v : Byte) : (Memory.write m a.toNat v).wf = true :=
  wfFrom_write h (Nat.zero_le _) a.isLt v

/-- What one attempt of a call can do to a reference device's registers: nothing, or one write at its pointer. -/
theorem refDevice_call_reg (d : RefDevice) (c : Call) :
    (d.call c).2.reg = d.reg ∨
      ∃ o, c = .xfer o ∧ d.phase = .data ∧ d.rd = false ∧ (d.call c).2.reg = Memory.write d.reg d.p.toNat o := by
  cases c with
  | sel => exact .inl rfl
  | desel => exact .inl rfl
  | xfer o =>
    cases hp : d.phase with
    | address => exact .inl (by simp [RefDevice.call, RefDevice.transfer, hp])
    | data =>
      cases hr : d.rd with
      | true => exact .inl (by simp [RefDevice.call, RefDevice.transfer, hp, hr, RefDevice.advance])
      | false => exact .inr ⟨o, rfl, rfl, rfl, by simp [RefDevice.call, RefDevice.transfer, hp, hr, RefDevice.advance]⟩

/-- Every call keeps the canonical form of the transport's registers. -/
theorem transport_call_wf {t : Transport} (h : t.wf = true) (c : Call) : (t.call c).2.wf = true := by
  cases t with
  | oracle as n => cases as <;> rfl
  | reference d =>
    show (d.call c).2.reg.wf = true
    rcases refDevice_call_reg d c with hr | ⟨o, -, -, -, hr⟩
    · rw [hr]; exact h
    · rw [hr]; exact write_wf h d.p o

end Sys2Proof.Machine
end

