-- ==== Sys2Proof/Laws/PerInstr.lean ====
section
/-!
SUPPORT. Statements for every instruction, made per instruction: the encoding of an operation lies in its row of the
opcode table (30_encoding.md R72, R73).
-/

/-- In every build that has the operation, its encoding agrees with its row's match under the row's mask. -/
def Sys2Proof.Laws.OpcodeRow.Statement (i : Sys2Proof.Instr) : Prop :=
  ∀ p : Sys2Proof.Ctrl2Profile, i.wf p = true →
    Sys2Proof.encode i &&& Sys2Proof.Machine.rowMask p i = Sys2Proof.Machine.rowMatch i

namespace Sys2Proof.Laws.OpcodeRow

theorem getid : Statement .getid := by
  intro p _; cases p <;> rfl

theorem beginCheck : Statement .beginCheck := by
  intro p _; cases p <;> rfl

theorem setctrl1 (pwr : Pwr) (rate : Rate) : Statement (.setctrl1 pwr rate) := by
  intro p _; cases p <;> cases pwr <;> cases rate <;> rfl

theorem setctrl2 (fs : Fs) (bdu : Bdu) (ien : Ien) (drdy : Drdy) (sim : Sim) (align : Align) :
    Statement (.setctrl2 fs bdu ien drdy sim align) := by
  intro p h
  cases p <;> cases align <;>
    first
    | (cases fs <;> cases bdu <;> cases ien <;> cases drdy <;> cases sim <;> rfl)
    | cases h

theorem setctrl3 (eck : Eck) (hpdd : Hpdd) (hpff : Hpff) (fds : Fds) (cfs : Cfs) :
    Statement (.setctrl3 eck hpdd hpff fds cfs) := by
  intro p _; cases p <;> cases eck <;> cases hpdd <;> cases hpff <;> cases fds <;> cases cfs <;> rfl

theorem rstfilt : Statement .rstfilt := by
  intro p _; cases p <;> rfl

theorem rdstatus : Statement .rdstatus := by
  intro p _; cases p <;> rfl

theorem rdh (axis : Axis) : Statement (.rdh axis) := by
  intro p _; cases p <;> cases axis <;> rfl

theorem rdl (axis : Axis) : Statement (.rdl axis) := by
  intro p _; cases p <;> cases axis <;> rfl

theorem rdd (axis : Axis) : Statement (.rdd axis) := by
  intro p _; cases p <;> cases axis <;> rfl

theorem rdb (axis : Axis) : Statement (.rdb axis) := by
  intro p _; cases p <;> cases axis <;> rfl

end Sys2Proof.Laws.OpcodeRow
end

