-- ==== Sys2Proof/Laws/State.lean ====
section
/-!
SUPPORT. One lemma for each field under each update of the state, so that no later proof unfolds a record update.
-/

namespace Sys2Proof.Machine

@[simp] theorem withTransport_busy (s : State) (t : Transport) : (s.withTransport t).busy = s.busy := rfl
@[simp] theorem withTransport_seq (s : State) (t : Transport) : (s.withTransport t).seq = s.seq := rfl
@[simp] theorem withTransport_cmd (s : State) (t : Transport) : (s.withTransport t).cmd = s.cmd := rfl
@[simp] theorem withTransport_res (s : State) (t : Transport) : (s.withTransport t).res = s.res := rfl
@[simp] theorem withTransport_resv (s : State) (t : Transport) : (s.withTransport t).resv = s.resv := rfl
@[simp] theorem withTransport_sel (s : State) (t : Transport) : (s.withTransport t).sel = s.sel := rfl
@[simp] theorem withTransport_err (s : State) (t : Transport) : (s.withTransport t).err = s.err := rfl
@[simp] theorem withTransport_errc (s : State) (t : Transport) : (s.withTransport t).errc = s.errc := rfl
@[simp] theorem withTransport_hb (s : State) (t : Transport) : (s.withTransport t).hb = s.hb := rfl
@[simp] theorem withTransport_lb (s : State) (t : Transport) : (s.withTransport t).lb = s.lb := rfl
@[simp] theorem withTransport_cfg (s : State) (t : Transport) : (s.withTransport t).cfg = s.cfg := rfl
@[simp] theorem withTransport_host (s : State) (t : Transport) : (s.withTransport t).host = s.host := rfl
@[simp] theorem withTransport_reads (s : State) (t : Transport) : (s.withTransport t).reads = s.reads := rfl
@[simp] theorem withTransport_transport (s : State) (t : Transport) : (s.withTransport t).transport = t := rfl
@[simp] theorem withTransport_trace (s : State) (t : Transport) : (s.withTransport t).trace = s.trace := rfl

@[simp] theorem withHost_busy (s : State) (h : List HostEvent) : (s.withHost h).busy = s.busy := rfl
@[simp] theorem withHost_seq (s : State) (h : List HostEvent) : (s.withHost h).seq = s.seq := rfl
@[simp] theorem withHost_cmd (s : State) (h : List HostEvent) : (s.withHost h).cmd = s.cmd := rfl
@[simp] theorem withHost_res (s : State) (h : List HostEvent) : (s.withHost h).res = s.res := rfl
@[simp] theorem withHost_resv (s : State) (h : List HostEvent) : (s.withHost h).resv = s.resv := rfl
@[simp] theorem withHost_sel (s : State) (h : List HostEvent) : (s.withHost h).sel = s.sel := rfl
@[simp] theorem withHost_err (s : State) (h : List HostEvent) : (s.withHost h).err = s.err := rfl
@[simp] theorem withHost_errc (s : State) (h : List HostEvent) : (s.withHost h).errc = s.errc := rfl
@[simp] theorem withHost_hb (s : State) (h : List HostEvent) : (s.withHost h).hb = s.hb := rfl
@[simp] theorem withHost_lb (s : State) (h : List HostEvent) : (s.withHost h).lb = s.lb := rfl
@[simp] theorem withHost_cfg (s : State) (h : List HostEvent) : (s.withHost h).cfg = s.cfg := rfl
@[simp] theorem withHost_host (s : State) (h : List HostEvent) : (s.withHost h).host = h := rfl
@[simp] theorem withHost_reads (s : State) (h : List HostEvent) : (s.withHost h).reads = s.reads := rfl
@[simp] theorem withHost_transport (s : State) (h : List HostEvent) : (s.withHost h).transport = s.transport := rfl
@[simp] theorem withHost_trace (s : State) (h : List HostEvent) : (s.withHost h).trace = s.trace := rfl

@[simp] theorem withCmd_busy (s : State) (w : Word) : (s.withCmd w).busy = s.busy := rfl
@[simp] theorem withCmd_seq (s : State) (w : Word) : (s.withCmd w).seq = s.seq := rfl
@[simp] theorem withCmd_cmd (s : State) (w : Word) : (s.withCmd w).cmd = w := rfl
@[simp] theorem withCmd_res (s : State) (w : Word) : (s.withCmd w).res = s.res := rfl
@[simp] theorem withCmd_resv (s : State) (w : Word) : (s.withCmd w).resv = s.resv := rfl
@[simp] theorem withCmd_sel (s : State) (w : Word) : (s.withCmd w).sel = s.sel := rfl
@[simp] theorem withCmd_err (s : State) (w : Word) : (s.withCmd w).err = s.err := rfl
@[simp] theorem withCmd_errc (s : State) (w : Word) : (s.withCmd w).errc = s.errc := rfl
@[simp] theorem withCmd_hb (s : State) (w : Word) : (s.withCmd w).hb = s.hb := rfl
@[simp] theorem withCmd_lb (s : State) (w : Word) : (s.withCmd w).lb = s.lb := rfl
@[simp] theorem withCmd_cfg (s : State) (w : Word) : (s.withCmd w).cfg = s.cfg := rfl
@[simp] theorem withCmd_host (s : State) (w : Word) : (s.withCmd w).host = s.host := rfl
@[simp] theorem withCmd_reads (s : State) (w : Word) : (s.withCmd w).reads = s.reads := rfl
@[simp] theorem withCmd_transport (s : State) (w : Word) : (s.withCmd w).transport = s.transport := rfl
@[simp] theorem withCmd_trace (s : State) (w : Word) : (s.withCmd w).trace = s.trace := rfl

@[simp] theorem withSel_busy (s : State) (b : Bool) : (s.withSel b).busy = s.busy := rfl
@[simp] theorem withSel_seq (s : State) (b : Bool) : (s.withSel b).seq = s.seq := rfl
@[simp] theorem withSel_cmd (s : State) (b : Bool) : (s.withSel b).cmd = s.cmd := rfl
@[simp] theorem withSel_res (s : State) (b : Bool) : (s.withSel b).res = s.res := rfl
@[simp] theorem withSel_resv (s : State) (b : Bool) : (s.withSel b).resv = s.resv := rfl
@[simp] theorem withSel_sel (s : State) (b : Bool) : (s.withSel b).sel = b := rfl
@[simp] theorem withSel_err (s : State) (b : Bool) : (s.withSel b).err = s.err := rfl
@[simp] theorem withSel_errc (s : State) (b : Bool) : (s.withSel b).errc = s.errc := rfl
@[simp] theorem withSel_hb (s : State) (b : Bool) : (s.withSel b).hb = s.hb := rfl
@[simp] theorem withSel_lb (s : State) (b : Bool) : (s.withSel b).lb = s.lb := rfl
@[simp] theorem withSel_cfg (s : State) (b : Bool) : (s.withSel b).cfg = s.cfg := rfl
@[simp] theorem withSel_host (s : State) (b : Bool) : (s.withSel b).host = s.host := rfl
@[simp] theorem withSel_reads (s : State) (b : Bool) : (s.withSel b).reads = s.reads := rfl
@[simp] theorem withSel_transport (s : State) (b : Bool) : (s.withSel b).transport = s.transport := rfl
@[simp] theorem withSel_trace (s : State) (b : Bool) : (s.withSel b).trace = s.trace := rfl

@[simp] theorem withHb_busy (s : State) (b : Byte) : (s.withHb b).busy = s.busy := rfl
@[simp] theorem withHb_seq (s : State) (b : Byte) : (s.withHb b).seq = s.seq := rfl
@[simp] theorem withHb_cmd (s : State) (b : Byte) : (s.withHb b).cmd = s.cmd := rfl
@[simp] theorem withHb_res (s : State) (b : Byte) : (s.withHb b).res = s.res := rfl
@[simp] theorem withHb_resv (s : State) (b : Byte) : (s.withHb b).resv = s.resv := rfl
@[simp] theorem withHb_sel (s : State) (b : Byte) : (s.withHb b).sel = s.sel := rfl
@[simp] theorem withHb_err (s : State) (b : Byte) : (s.withHb b).err = s.err := rfl
@[simp] theorem withHb_errc (s : State) (b : Byte) : (s.withHb b).errc = s.errc := rfl
@[simp] theorem withHb_hb (s : State) (b : Byte) : (s.withHb b).hb = b := rfl
@[simp] theorem withHb_lb (s : State) (b : Byte) : (s.withHb b).lb = s.lb := rfl
@[simp] theorem withHb_cfg (s : State) (b : Byte) : (s.withHb b).cfg = s.cfg := rfl
@[simp] theorem withHb_host (s : State) (b : Byte) : (s.withHb b).host = s.host := rfl
@[simp] theorem withHb_reads (s : State) (b : Byte) : (s.withHb b).reads = s.reads := rfl
@[simp] theorem withHb_transport (s : State) (b : Byte) : (s.withHb b).transport = s.transport := rfl
@[simp] theorem withHb_trace (s : State) (b : Byte) : (s.withHb b).trace = s.trace := rfl

@[simp] theorem withLb_busy (s : State) (b : Byte) : (s.withLb b).busy = s.busy := rfl
@[simp] theorem withLb_seq (s : State) (b : Byte) : (s.withLb b).seq = s.seq := rfl
@[simp] theorem withLb_cmd (s : State) (b : Byte) : (s.withLb b).cmd = s.cmd := rfl
@[simp] theorem withLb_res (s : State) (b : Byte) : (s.withLb b).res = s.res := rfl
@[simp] theorem withLb_resv (s : State) (b : Byte) : (s.withLb b).resv = s.resv := rfl
@[simp] theorem withLb_sel (s : State) (b : Byte) : (s.withLb b).sel = s.sel := rfl
@[simp] theorem withLb_err (s : State) (b : Byte) : (s.withLb b).err = s.err := rfl
@[simp] theorem withLb_errc (s : State) (b : Byte) : (s.withLb b).errc = s.errc := rfl
@[simp] theorem withLb_hb (s : State) (b : Byte) : (s.withLb b).hb = s.hb := rfl
@[simp] theorem withLb_lb (s : State) (b : Byte) : (s.withLb b).lb = b := rfl
@[simp] theorem withLb_cfg (s : State) (b : Byte) : (s.withLb b).cfg = s.cfg := rfl
@[simp] theorem withLb_host (s : State) (b : Byte) : (s.withLb b).host = s.host := rfl
@[simp] theorem withLb_reads (s : State) (b : Byte) : (s.withLb b).reads = s.reads := rfl
@[simp] theorem withLb_transport (s : State) (b : Byte) : (s.withLb b).transport = s.transport := rfl
@[simp] theorem withLb_trace (s : State) (b : Byte) : (s.withLb b).trace = s.trace := rfl

@[simp] theorem log_busy (s : State) (e : Event) : (s.log e).busy = s.busy := rfl
@[simp] theorem log_seq (s : State) (e : Event) : (s.log e).seq = s.seq := rfl
@[simp] theorem log_cmd (s : State) (e : Event) : (s.log e).cmd = s.cmd := rfl
@[simp] theorem log_res (s : State) (e : Event) : (s.log e).res = s.res := rfl
@[simp] theorem log_resv (s : State) (e : Event) : (s.log e).resv = s.resv := rfl
@[simp] theorem log_sel (s : State) (e : Event) : (s.log e).sel = s.sel := rfl
@[simp] theorem log_err (s : State) (e : Event) : (s.log e).err = s.err := rfl
@[simp] theorem log_errc (s : State) (e : Event) : (s.log e).errc = s.errc := rfl
@[simp] theorem log_hb (s : State) (e : Event) : (s.log e).hb = s.hb := rfl
@[simp] theorem log_lb (s : State) (e : Event) : (s.log e).lb = s.lb := rfl
@[simp] theorem log_cfg (s : State) (e : Event) : (s.log e).cfg = s.cfg := rfl
@[simp] theorem log_host (s : State) (e : Event) : (s.log e).host = s.host := rfl
@[simp] theorem log_reads (s : State) (e : Event) : (s.log e).reads = s.reads := rfl
@[simp] theorem log_transport (s : State) (e : Event) : (s.log e).transport = s.transport := rfl
@[simp] theorem log_trace (s : State) (e : Event) : (s.log e).trace = s.trace ++ [e] := rfl

@[simp] theorem nextSeq_busy (s : State) : (s.nextSeq).busy = s.busy := rfl
@[simp] theorem nextSeq_seq (s : State) : (s.nextSeq).seq = s.seq + 1#3 := rfl
@[simp] theorem nextSeq_cmd (s : State) : (s.nextSeq).cmd = s.cmd := rfl
@[simp] theorem nextSeq_res (s : State) : (s.nextSeq).res = s.res := rfl
@[simp] theorem nextSeq_resv (s : State) : (s.nextSeq).resv = s.resv := rfl
@[simp] theorem nextSeq_sel (s : State) : (s.nextSeq).sel = s.sel := rfl
@[simp] theorem nextSeq_err (s : State) : (s.nextSeq).err = s.err := rfl
@[simp] theorem nextSeq_errc (s : State) : (s.nextSeq).errc = s.errc := rfl
@[simp] theorem nextSeq_hb (s : State) : (s.nextSeq).hb = s.hb := rfl
@[simp] theorem nextSeq_lb (s : State) : (s.nextSeq).lb = s.lb := rfl
@[simp] theorem nextSeq_cfg (s : State) : (s.nextSeq).cfg = s.cfg := rfl
@[simp] theorem nextSeq_host (s : State) : (s.nextSeq).host = s.host := rfl
@[simp] theorem nextSeq_reads (s : State) : (s.nextSeq).reads = s.reads := rfl
@[simp] theorem nextSeq_transport (s : State) : (s.nextSeq).transport = s.transport := rfl
@[simp] theorem nextSeq_trace (s : State) : (s.nextSeq).trace = s.trace := rfl

@[simp] theorem start_busy (s : State) : (s.start).busy = true := rfl
@[simp] theorem start_seq (s : State) : (s.start).seq = 0#3 := rfl
@[simp] theorem start_cmd (s : State) : (s.start).cmd = s.cmd := rfl
@[simp] theorem start_res (s : State) : (s.start).res = s.res := rfl
@[simp] theorem start_resv (s : State) : (s.start).resv = s.resv := rfl
@[simp] theorem start_sel (s : State) : (s.start).sel = s.sel := rfl
@[simp] theorem start_err (s : State) : (s.start).err = s.err := rfl
@[simp] theorem start_errc (s : State) : (s.start).errc = s.errc := rfl
@[simp] theorem start_hb (s : State) : (s.start).hb = s.hb := rfl
@[simp] theorem start_lb (s : State) : (s.start).lb = s.lb := rfl
@[simp] theorem start_cfg (s : State) : (s.start).cfg = s.cfg := rfl
@[simp] theorem start_host (s : State) : (s.start).host = s.host := rfl
@[simp] theorem start_reads (s : State) : (s.start).reads = s.reads := rfl
@[simp] theorem start_transport (s : State) : (s.start).transport = s.transport := rfl
@[simp] theorem start_trace (s : State) : (s.start).trace = s.trace := rfl

@[simp] theorem finish_busy (s : State) : (s.finish).busy = false := rfl
@[simp] theorem finish_seq (s : State) : (s.finish).seq = 0#3 := rfl
@[simp] theorem finish_cmd (s : State) : (s.finish).cmd = s.cmd := rfl
@[simp] theorem finish_res (s : State) : (s.finish).res = s.res := rfl
@[simp] theorem finish_resv (s : State) : (s.finish).resv = s.resv := rfl
@[simp] theorem finish_sel (s : State) : (s.finish).sel = s.sel := rfl
@[simp] theorem finish_err (s : State) : (s.finish).err = s.err := rfl
@[simp] theorem finish_errc (s : State) : (s.finish).errc = s.errc := rfl
@[simp] theorem finish_hb (s : State) : (s.finish).hb = s.hb := rfl
@[simp] theorem finish_lb (s : State) : (s.finish).lb = s.lb := rfl
@[simp] theorem finish_cfg (s : State) : (s.finish).cfg = s.cfg := rfl
@[simp] theorem finish_host (s : State) : (s.finish).host = s.host := rfl
@[simp] theorem finish_reads (s : State) : (s.finish).reads = s.reads := rfl
@[simp] theorem finish_transport (s : State) : (s.finish).transport = s.transport := rfl
@[simp] theorem finish_trace (s : State) : (s.finish).trace = s.trace := rfl

@[simp] theorem writeSome_busy (s : State) (v : Word) : (s.writeResult (some v)).busy = s.busy := rfl
@[simp] theorem writeSome_seq (s : State) (v : Word) : (s.writeResult (some v)).seq = s.seq := rfl
@[simp] theorem writeSome_cmd (s : State) (v : Word) : (s.writeResult (some v)).cmd = s.cmd := rfl
@[simp] theorem writeSome_res (s : State) (v : Word) : (s.writeResult (some v)).res = v := rfl
@[simp] theorem writeSome_resv (s : State) (v : Word) : (s.writeResult (some v)).resv = true := rfl
@[simp] theorem writeSome_sel (s : State) (v : Word) : (s.writeResult (some v)).sel = s.sel := rfl
@[simp] theorem writeSome_err (s : State) (v : Word) : (s.writeResult (some v)).err = s.err := rfl
@[simp] theorem writeSome_errc (s : State) (v : Word) : (s.writeResult (some v)).errc = s.errc := rfl
@[simp] theorem writeSome_hb (s : State) (v : Word) : (s.writeResult (some v)).hb = s.hb := rfl
@[simp] theorem writeSome_lb (s : State) (v : Word) : (s.writeResult (some v)).lb = s.lb := rfl
@[simp] theorem writeSome_cfg (s : State) (v : Word) : (s.writeResult (some v)).cfg = s.cfg := rfl
@[simp] theorem writeSome_host (s : State) (v : Word) : (s.writeResult (some v)).host = s.host := rfl
@[simp] theorem writeSome_reads (s : State) (v : Word) : (s.writeResult (some v)).reads = s.reads := rfl
@[simp] theorem writeSome_transport (s : State) (v : Word) : (s.writeResult (some v)).transport = s.transport := rfl
@[simp] theorem writeSome_trace (s : State) (v : Word) : (s.writeResult (some v)).trace = s.trace := rfl

@[simp] theorem hostReads_busy (s : State) (o : Output) : (s.hostReads o).busy = s.busy := rfl
@[simp] theorem hostReads_seq (s : State) (o : Output) : (s.hostReads o).seq = s.seq := rfl
@[simp] theorem hostReads_cmd (s : State) (o : Output) : (s.hostReads o).cmd = s.cmd := rfl
@[simp] theorem hostReads_res (s : State) (o : Output) : (s.hostReads o).res = s.res := rfl
@[simp] theorem hostReads_resv (s : State) (o : Output) : (s.hostReads o).resv = s.resv := rfl
@[simp] theorem hostReads_sel (s : State) (o : Output) : (s.hostReads o).sel = s.sel := rfl
@[simp] theorem hostReads_err (s : State) (o : Output) : (s.hostReads o).err = s.err := rfl
@[simp] theorem hostReads_errc (s : State) (o : Output) : (s.hostReads o).errc = s.errc := rfl
@[simp] theorem hostReads_hb (s : State) (o : Output) : (s.hostReads o).hb = s.hb := rfl
@[simp] theorem hostReads_lb (s : State) (o : Output) : (s.hostReads o).lb = s.lb := rfl
@[simp] theorem hostReads_cfg (s : State) (o : Output) : (s.hostReads o).cfg = s.cfg := rfl
@[simp] theorem hostReads_host (s : State) (o : Output) : (s.hostReads o).host = s.host := rfl
@[simp] theorem hostReads_transport (s : State) (o : Output) : (s.hostReads o).transport = s.transport := rfl
@[simp] theorem hostReads_trace (s : State) (o : Output) : (s.hostReads o).trace = s.trace := rfl
@[simp] theorem hostReads_reads (s : State) (o : Output) : (s.hostReads o).reads = s.reads ++ [s.output o] := rfl

@[simp] theorem raiseRefused_busy (s : State) (c : RefuseCause) : (s.raiseRefused c).busy = s.busy := rfl
@[simp] theorem raiseRefused_seq (s : State) (c : RefuseCause) : (s.raiseRefused c).seq = s.seq := rfl
@[simp] theorem raiseRefused_cmd (s : State) (c : RefuseCause) : (s.raiseRefused c).cmd = s.cmd := rfl
@[simp] theorem raiseRefused_res (s : State) (c : RefuseCause) : (s.raiseRefused c).res = s.res := rfl
@[simp] theorem raiseRefused_resv (s : State) (c : RefuseCause) : (s.raiseRefused c).resv = s.resv := rfl
@[simp] theorem raiseRefused_sel (s : State) (c : RefuseCause) : (s.raiseRefused c).sel = s.sel := rfl
@[simp] theorem raiseRefused_err (s : State) (c : RefuseCause) : (s.raiseRefused c).err = true := rfl
@[simp] theorem raiseRefused_errc (s : State) (c : RefuseCause) : (s.raiseRefused c).errc = s.errcAfter c := rfl
@[simp] theorem raiseRefused_hb (s : State) (c : RefuseCause) : (s.raiseRefused c).hb = s.hb := rfl
@[simp] theorem raiseRefused_lb (s : State) (c : RefuseCause) : (s.raiseRefused c).lb = s.lb := rfl
@[simp] theorem raiseRefused_cfg (s : State) (c : RefuseCause) : (s.raiseRefused c).cfg = s.cfg := rfl
@[simp] theorem raiseRefused_host (s : State) (c : RefuseCause) : (s.raiseRefused c).host = s.host := rfl
@[simp] theorem raiseRefused_reads (s : State) (c : RefuseCause) : (s.raiseRefused c).reads = s.reads := rfl
@[simp] theorem raiseRefused_transport (s : State) (c : RefuseCause) : (s.raiseRefused c).transport = s.transport := rfl
@[simp] theorem raiseRefused_trace (s : State) (c : RefuseCause) : (s.raiseRefused c).trace = s.trace := rfl

@[simp] theorem resetBlock_busy (s : State) : (s.resetBlock).busy = false := rfl
@[simp] theorem resetBlock_seq (s : State) : (s.resetBlock).seq = 0#3 := rfl
@[simp] theorem resetBlock_cmd (s : State) : (s.resetBlock).cmd = 0x0000#16 := rfl
@[simp] theorem resetBlock_res (s : State) : (s.resetBlock).res = 0x0000#16 := rfl
@[simp] theorem resetBlock_resv (s : State) : (s.resetBlock).resv = false := rfl
@[simp] theorem resetBlock_sel (s : State) : (s.resetBlock).sel = false := rfl
@[simp] theorem resetBlock_err (s : State) : (s.resetBlock).err = false := rfl
@[simp] theorem resetBlock_errc (s : State) : (s.resetBlock).errc = 0#2 := rfl
@[simp] theorem resetBlock_hb (s : State) : (s.resetBlock).hb = 0x00#8 := rfl
@[simp] theorem resetBlock_lb (s : State) : (s.resetBlock).lb = 0x00#8 := rfl
@[simp] theorem resetBlock_cfg (s : State) : (s.resetBlock).cfg = s.cfg := rfl
@[simp] theorem resetBlock_host (s : State) : (s.resetBlock).host = s.host := rfl
@[simp] theorem resetBlock_reads (s : State) : (s.resetBlock).reads = s.reads := rfl
@[simp] theorem resetBlock_transport (s : State) : (s.resetBlock).transport = s.transport := rfl
@[simp] theorem resetBlock_trace (s : State) : (s.resetBlock).trace = if s.sel then s.trace ++ [.desel] else s.trace := rfl

@[simp] theorem offerNext_busy (s : State) (w : Word) : (s.offerNext w).busy = false := rfl
@[simp] theorem offerNext_seq (s : State) (w : Word) : (s.offerNext w).seq = 0#3 := rfl
@[simp] theorem offerNext_cmd (s : State) (w : Word) : (s.offerNext w).cmd = s.cmd := rfl
@[simp] theorem offerNext_res (s : State) (w : Word) : (s.offerNext w).res = s.res := rfl
@[simp] theorem offerNext_resv (s : State) (w : Word) : (s.offerNext w).resv = s.resv := rfl
@[simp] theorem offerNext_sel (s : State) (w : Word) : (s.offerNext w).sel = false := rfl
@[simp] theorem offerNext_err (s : State) (w : Word) : (s.offerNext w).err = s.err := rfl
@[simp] theorem offerNext_errc (s : State) (w : Word) : (s.offerNext w).errc = s.errc := rfl
@[simp] theorem offerNext_hb (s : State) (w : Word) : (s.offerNext w).hb = s.hb := rfl
@[simp] theorem offerNext_lb (s : State) (w : Word) : (s.offerNext w).lb = s.lb := rfl
@[simp] theorem offerNext_cfg (s : State) (w : Word) : (s.offerNext w).cfg = s.cfg := rfl
@[simp] theorem offerNext_host (s : State) (w : Word) : (s.offerNext w).host = .offer w :: s.host := rfl
@[simp] theorem offerNext_reads (s : State) (w : Word) : (s.offerNext w).reads = s.reads := rfl
@[simp] theorem offerNext_transport (s : State) (w : Word) : (s.offerNext w).transport = s.transport := rfl
@[simp] theorem offerNext_trace (s : State) (w : Word) : (s.offerNext w).trace = s.trace := rfl

@[simp] theorem writeResult_none (s : State) : s.writeResult none = s := rfl

@[simp] theorem effect_busy (m : MicroOp) (i : Byte) (s : State) : (m.effect i s).busy = s.busy := by cases m <;> rfl
@[simp] theorem effect_seq (m : MicroOp) (i : Byte) (s : State) : (m.effect i s).seq = s.seq := by cases m <;> rfl
@[simp] theorem effect_cmd (m : MicroOp) (i : Byte) (s : State) : (m.effect i s).cmd = s.cmd := by cases m <;> rfl
@[simp] theorem effect_res (m : MicroOp) (i : Byte) (s : State) : (m.effect i s).res = s.res := by cases m <;> rfl
@[simp] theorem effect_resv (m : MicroOp) (i : Byte) (s : State) : (m.effect i s).resv = s.resv := by cases m <;> rfl
@[simp] theorem effect_err (m : MicroOp) (i : Byte) (s : State) : (m.effect i s).err = s.err := by cases m <;> rfl
@[simp] theorem effect_errc (m : MicroOp) (i : Byte) (s : State) : (m.effect i s).errc = s.errc := by cases m <;> rfl
@[simp] theorem effect_cfg (m : MicroOp) (i : Byte) (s : State) : (m.effect i s).cfg = s.cfg := by cases m <;> rfl
@[simp] theorem effect_host (m : MicroOp) (i : Byte) (s : State) : (m.effect i s).host = s.host := by cases m <;> rfl
@[simp] theorem effect_reads (m : MicroOp) (i : Byte) (s : State) : (m.effect i s).reads = s.reads := by cases m <;> rfl
@[simp] theorem effect_transport (m : MicroOp) (i : Byte) (s : State) : (m.effect i s).transport = s.transport := by cases m <;> rfl
@[simp] theorem effect_trace (m : MicroOp) (i : Byte) (s : State) : (m.effect i s).trace = s.trace := by cases m <;> rfl

end Sys2Proof.Machine
end

