-- ==== Sys2Proof/Laws/Run.lean ====
section
/-!
SUPPORT. What the run of a script can do, said once: it completes when every call returns, or it stops before the first
call that has not returned; in either case the state is known whole. And the meaning of each operation as that run.
-/

namespace Sys2Proof.Machine

/-- The line, `HB` and `LB` after entries whose calls returned these bytes. -/
def capture : List MicroOp → List Byte → Bool × Byte × Byte → Bool × Byte × Byte
  | .sel :: ms, _ :: bs, r => capture ms bs (true, r.2.1, r.2.2)
  | .desel :: ms, _ :: bs, r => capture ms bs (false, r.2.1, r.2.2)
  | .xfer _ :: ms, _ :: bs, r => capture ms bs r
  | .captureHigh _ :: ms, b :: bs, r => capture ms bs (r.1, b, r.2.2)
  | .captureLow _ :: ms, b :: bs, r => capture ms bs (r.1, r.2.1, b)
  | [], _, r => r
  | _ :: _, [], r => r

/-- The state after the entries `ms` whose calls returned the bytes `bs`, with the transport then `t`. -/
def State.reach (s : State) (ms : List MicroOp) (bs : List Byte) (t : Transport) : State :=
  { s with
    sel := (capture ms bs (s.sel, s.hb, s.lb)).1
    hb := (capture ms bs (s.sel, s.hb, s.lb)).2.1
    lb := (capture ms bs (s.sel, s.hb, s.lb)).2.2
    transport := t
    trace := s.trace ++ eventsOf (ms.map MicroOp.call) bs
    seq := s.seq + BitVec.ofNat 3 ms.length }

/-- The state at the completion of an operation that stands at `s` (10_state.md R31). -/
def State.completed (s : State) (result : Byte → Byte → Option Word) : State :=
  (s.writeResult (result s.hb s.lb)).finish

theorem reach_nil (s : State) (t : Transport) : s.reach [] [] t = s.withTransport t := by
  simp [State.reach, capture, eventsOf, State.withTransport]

/-- One entry more at the front. -/
theorem reach_cons (s : State) (m : MicroOp) (ms : List MicroOp) (i : Byte) (bs : List Byte) (t t' : Transport) :
    ((m.effect i ((s.withTransport t').log (m.call.event i))).nextSeq).reach ms bs t =
      s.reach (m :: ms) (i :: bs) t := by
  have hseq : s.seq + 1#3 + BitVec.ofNat 3 ms.length = s.seq + BitVec.ofNat 3 (ms.length + 1) := by
    rw [BitVec.add_assoc, ← BitVec.ofNat_add, Nat.add_comm 1]
  cases m <;> simp [State.reach, capture, eventsOf, State.nextSeq, State.log, State.withTransport, MicroOp.effect,
    State.withSel, State.withHb, State.withLb, MicroOp.call, hseq]

/-- The completion sets `SEQ` itself. -/
theorem completed_nextSeq (s : State) (result : Byte → Byte → Option Word) :
    s.nextSeq.completed result = s.completed result := by
  cases hr : result s.hb s.lb <;> simp [State.completed, State.nextSeq, State.finish, State.writeResult, hr]

theorem effect_withTransport_self (m : MicroOp) (i : Byte) (s : State) (t : Transport) (e : Event) :
    ((m.effect i ((s.withTransport t).log e)).nextSeq).withTransport t =
      (m.effect i ((s.withTransport t).log e)).nextSeq := by
  cases m <;> rfl

theorem serve_cons {t : Transport} {c : Call} {cs : List Call} {r : List Byte × Transport}
    (h : t.serve (c :: cs) = some r) :
    ∃ i t' bs, t.call c = (some i, t') ∧ t'.serve cs = some (bs, r.2) ∧ r.1 = i :: bs := by
  rw [Transport.serve] at h
  split at h
  · cases h
  · rename_i i t' hc
    cases hs : t'.serve cs with
    | none => rw [hs] at h; cases h
    | some q =>
      rw [hs] at h
      simp only [Option.map_some, Option.some.injEq] at h
      exact ⟨i, t', q.1, hc, by rw [← h, hs], by rw [← h]⟩

theorem serve_cons_of {t t' : Transport} {c : Call} {cs : List Call} {i : Byte} {r : List Byte × Transport}
    (hc : t.call c = (some i, t')) (hs : t'.serve cs = some r) : t.serve (c :: cs) = some (i :: r.1, r.2) := by
  rw [Transport.serve, hc]
  simp [hs]

/-- Every call returns: the operation completes in this run. -/
theorem run_served {result : Byte → Byte → Option Word} {ms : List MicroOp} (hne : ms ≠ []) {s : State}
    {bs : List Byte} {t : Transport} (h : s.transport.serve (ms.map MicroOp.call) = some (bs, t)) :
    State.run result ms s = (s.reach ms bs t).completed result := by
  induction ms generalizing s bs with
  | nil => exact absurd rfl hne
  | cons m ms ih =>
    obtain ⟨i, t', bs', hc, hs, rfl⟩ := serve_cons h
    rw [State.run, hc]
    cases ms with
    | nil =>
      simp only [List.map_nil, Transport.serve, Option.some.injEq, Prod.mk.injEq] at hs
      obtain ⟨rfl, rfl⟩ := hs
      rw [← reach_cons s m [] i [] t' t', reach_nil, effect_withTransport_self, completed_nextSeq]
      rfl
    | cons m2 ms =>
      have hs' : ((m.effect i ((s.withTransport t').log (m.call.event i))).nextSeq).transport.serve
          ((m2 :: ms).map MicroOp.call) = some (bs', t) := by simpa using hs
      simp only [State.conclude]
      rw [ih (by simp) hs', reach_cons]

/-- The calls before an entry return and its call has not: the block stays in that micro-step. -/
theorem run_waits {result : Byte → Byte → Option Word} {pre post : List MicroOp} {m : MicroOp} {s : State}
    {bs : List Byte} {t t' : Transport} (h : s.transport.serve (pre.map MicroOp.call) = some (bs, t))
    (hw : t.call m.call = (none, t')) :
    State.run result (pre ++ m :: post) s = s.reach pre bs t' := by
  induction pre generalizing s bs with
  | nil =>
    simp only [List.map_nil, Transport.serve, Option.some.injEq, Prod.mk.injEq] at h
    obtain ⟨rfl, rfl⟩ := h
    rw [List.nil_append, State.run, hw, reach_nil]
  | cons m1 pre ih =>
    obtain ⟨i, t1, bs', hc, hs, rfl⟩ := serve_cons h
    rw [List.cons_append, State.run, hc]
    have hs' : ((m1.effect i ((s.withTransport t1).log (m1.call.event i))).nextSeq).transport.serve
        (pre.map MicroOp.call) = some (bs', t) := by simpa using hs
    have hcon : ∀ q : State, q.conclude result (pre ++ m :: post) = q.nextSeq := by
      intro q; cases pre <;> rfl
    simp only [hcon]
    rw [ih hs', reach_cons]

/-- All that a transport can do with a list of calls: serve it, or serve a first part and leave the next call waiting. -/
theorem serve_cases (ms : List MicroOp) (t : Transport) :
    (∃ bs t', t.serve (ms.map MicroOp.call) = some (bs, t')) ∨
      ∃ pre m post bs t1 t2, ms = pre ++ m :: post ∧ t.serve (pre.map MicroOp.call) = some (bs, t1) ∧
        t1.call m.call = (none, t2) := by
  induction ms generalizing t with
  | nil => exact .inl ⟨[], t, rfl⟩
  | cons m ms ih =>
    cases hc : t.call m.call with
    | mk o t' =>
      cases o with
      | none => exact .inr ⟨[], m, ms, [], t, t', rfl, rfl, hc⟩
      | some i =>
        rcases ih t' with ⟨bs, t2, hs⟩ | ⟨pre, m', post, bs, t1, t2, rfl, hs, hw⟩
        · exact .inl ⟨i :: bs, t2, serve_cons_of hc hs⟩
        · exact .inr ⟨m :: pre, m', post, i :: bs, t1, t2, rfl, serve_cons_of hc hs, hw⟩

/-- All that a run can do (10_state.md R30, R31; 70_reset_and_hazards.md R149): complete, or wait in a micro-step. -/
theorem run_cases (result : Byte → Byte → Option Word) {ms : List MicroOp} (hne : ms ≠ []) (s : State) :
    (∃ bs t, s.transport.serve (ms.map MicroOp.call) = some (bs, t) ∧
        State.run result ms s = (s.reach ms bs t).completed result) ∨
      ∃ pre m post bs t1 t2, ms = pre ++ m :: post ∧ s.transport.serve (pre.map MicroOp.call) = some (bs, t1) ∧
        t1.call m.call = (none, t2) ∧ State.run result ms s = s.reach pre bs t2 := by
  rcases serve_cases ms s.transport with ⟨bs, t, h⟩ | ⟨pre, m, post, bs, t1, t2, rfl, hs, hw⟩
  · exact .inl ⟨bs, t, h, run_served hne h⟩
  · exact .inr ⟨pre, m, post, bs, t1, t2, rfl, hs, hw, run_waits hs hw⟩

/-- Each call returns one byte. -/
theorem serve_length {cs : List Call} {t : Transport} {r : List Byte × Transport} (h : t.serve cs = some r) :
    r.1.length = cs.length := by
  induction cs generalizing t r with
  | nil => simp only [Transport.serve, Option.some.injEq] at h; simp [← h]
  | cons c cs ih =>
    obtain ⟨i, t', bs, -, hs, hr⟩ := serve_cons h
    simp [hr, ih hs]

/-- The transport keeps the canonical form of its registers whatever it serves. -/
theorem call_pair_eq {t t' : Transport} {c : Call} {o : Option Byte} (h : t.call c = (o, t')) : (t.call c).2 = t' := by
  rw [h]

/-! ### Every operation is the run of its script -/

theorem exec_eq_perform (i : Instr) (s : State) : exec i s = s.perform (script s.cfg i) (resultOf i) := by
  cases i <;> rfl

theorem script_ne_nil (c : Config) (i : Instr) : script c i ≠ [] := by
  cases i <;> exact List.cons_ne_nil _ _

theorem script_length_le (c : Config) (i : Instr) : (script c i).length ≤ 8 := by
  cases i <;> exact Nat.le_of_ble_eq_true rfl

/-- From an idle block an operation starts at its first entry (10_state.md R29). -/
theorem exec_idle {i : Instr} {s : State} (h : s.busy = false) :
    exec i s = .next (State.run (resultOf i) (script s.cfg i) s.start) := by
  rw [exec_eq_perform, State.perform, h]
  rfl

/-- A busy block goes on at `SEQ` (10_state.md R30). -/
theorem exec_busy {i : Instr} {s : State} (h : s.busy = true) (hseq : s.seq.toNat < (script s.cfg i).length) :
    exec i s = .next (State.run (resultOf i) ((script s.cfg i).drop s.seq.toNat) s) := by
  rw [exec_eq_perform, State.perform, h]
  cases hd : (script s.cfg i).drop s.seq.toNat with
  | nil => exact absurd hd (List.drop_eq_nil_iff.not.2 (by omega))
  | cons m rest => rfl

/-- An operation refuses nothing, and stops only in a busy state with `SEQ` past its script. -/
theorem exec_outcomes (i : Instr) (s : State) :
    (∃ t, exec i s = .next t) ∨
      (s.busy = true ∧ (script s.cfg i).length ≤ s.seq.toNat ∧ exec i s = .fault .noMicroStep) := by
  cases h : s.busy with
  | false => exact .inl ⟨_, exec_idle h⟩
  | true =>
    by_cases hs : s.seq.toNat < (script s.cfg i).length
    · exact .inl ⟨_, exec_busy h hs⟩
    · refine .inr ⟨rfl, by omega, ?_⟩
      rw [exec_eq_perform, State.perform, h]
      rw [List.drop_eq_nil_of_le (by omega)]
      rfl

end Sys2Proof.Machine
end

