-- ==== Sys2Proof/Laws/Step.lean ====
section
/-!
SUPPORT. What one step can do, said once (`step_shape`), what one operation can do (`exec_shape`), the fields of a
completed operation, the framing of scripts, and the run of many steps.
-/

namespace Sys2Proof.Machine

/-! ### One operation -/

/-- From an idle block whose transport serves the whole script, an operation completes. -/
theorem exec_served {i : Instr} {s : State} (hb : s.busy = false) {bs : List Byte} {t : Transport}
    (h : s.transport.serve ((script s.cfg i).map MicroOp.call) = some (bs, t)) :
    exec i s = .next ((s.start.reach (script s.cfg i) bs t).completed (resultOf i)) := by
  rw [exec_idle hb, run_served (script_ne_nil _ _) (by simpa using h)]

/-- All that an operation can do when it answers a next state: from `s0`, on the entries `ms`, it completes, or it stays
in the first micro-step whose call has not returned. -/
theorem exec_shape {i : Instr} {s t : State} (h : exec i s = .next t) :
    ∃ ms s0, ms ≠ [] ∧
    (s.busy = true ∧ s0 = s ∧ ms = (script s.cfg i).drop s.seq.toNat ∨
      s.busy = false ∧ s0 = s.start ∧ ms = script s.cfg i) ∧
    ((∃ bs t', s0.transport.serve (ms.map MicroOp.call) = some (bs, t') ∧
        t = (s0.reach ms bs t').completed (resultOf i)) ∨
      ∃ pre m post bs t1 t2, ms = pre ++ m :: post ∧ s0.transport.serve (pre.map MicroOp.call) = some (bs, t1) ∧
        t1.call m.call = (none, t2) ∧ t = s0.reach pre bs t2) := by
  cases hb : s.busy with
  | false =>
    rw [exec_idle hb] at h
    refine ⟨_, _, script_ne_nil _ _, .inr ⟨rfl, rfl, rfl⟩, ?_⟩
    cases h
    exact run_cases _ (script_ne_nil _ _) _
  | true =>
    rcases exec_outcomes i s with h' | ⟨_, h1, h2⟩
    · by_cases hs : s.seq.toNat < (script s.cfg i).length
      · rw [exec_busy hb hs] at h
        have : (script s.cfg i).drop s.seq.toNat ≠ [] := by simp; omega
        refine ⟨_, _, this, .inl ⟨rfl, rfl, rfl⟩, ?_⟩
        cases h
        exact run_cases _ this _
      · rw [exec_eq_perform, State.perform, hb, List.drop_eq_nil_of_le (by omega)] at h
        cases h
    · rw [h2] at h; cases h

/-! ### The fields of a completed operation -/

@[simp] theorem completed_host (s : State) (r : Byte → Byte → Option Word) : (s.completed r).host = s.host := by
  unfold State.completed; cases h : r s.hb s.lb <;> rfl

@[simp] theorem completed_cmd (s : State) (r : Byte → Byte → Option Word) : (s.completed r).cmd = s.cmd := by
  unfold State.completed; cases h : r s.hb s.lb <;> rfl

@[simp] theorem completed_err (s : State) (r : Byte → Byte → Option Word) : (s.completed r).err = s.err := by
  unfold State.completed; cases h : r s.hb s.lb <;> rfl

@[simp] theorem completed_errc (s : State) (r : Byte → Byte → Option Word) : (s.completed r).errc = s.errc := by
  unfold State.completed; cases h : r s.hb s.lb <;> rfl

@[simp] theorem completed_cfg (s : State) (r : Byte → Byte → Option Word) : (s.completed r).cfg = s.cfg := by
  unfold State.completed; cases h : r s.hb s.lb <;> rfl

@[simp] theorem completed_reads (s : State) (r : Byte → Byte → Option Word) : (s.completed r).reads = s.reads := by
  unfold State.completed; cases h : r s.hb s.lb <;> rfl

@[simp] theorem completed_trace (s : State) (r : Byte → Byte → Option Word) : (s.completed r).trace = s.trace := by
  unfold State.completed; cases h : r s.hb s.lb <;> rfl

@[simp] theorem completed_sel (s : State) (r : Byte → Byte → Option Word) : (s.completed r).sel = s.sel := by
  unfold State.completed; cases h : r s.hb s.lb <;> rfl

@[simp] theorem completed_transport (s : State) (r : Byte → Byte → Option Word) :
    (s.completed r).transport = s.transport := by
  unfold State.completed; cases h : r s.hb s.lb <;> rfl

@[simp] theorem completed_seq (s : State) (r : Byte → Byte → Option Word) : (s.completed r).seq = 0#3 := by
  unfold State.completed; cases h : r s.hb s.lb <;> rfl

@[simp] theorem completed_busy (s : State) (r : Byte → Byte → Option Word) : (s.completed r).busy = false := by
  unfold State.completed; cases h : r s.hb s.lb <;> rfl

theorem completed_result (s : State) (r : Byte → Byte → Option Word) :
    match r s.hb s.lb with
    | some v => (s.completed r).res = v ∧ (s.completed r).resv = true
    | none => (s.completed r).res = s.res ∧ (s.completed r).resv = s.resv := by
  cases h : r s.hb s.lb <;> simp [State.completed, State.writeResult, h, State.finish]

theorem completed_of_no_result (s : State) (i : Instr) (h : returnsValue i = false) :
    s.completed (resultOf i) = s.finish := by
  cases i <;> simp [returnsValue] at h <;> rfl

/-! ### One step -/

/-- The ways in which a step answers a next state. -/
inductive StepShape (s t : State) : Prop where
  | reset (rest : List HostEvent) (h : s.host = .reset :: rest) (e : t = (s.withHost rest).resetBlock)
  | read (o : Output) (rest : List HostEvent) (h : s.host = .read o :: rest)
      (e : t = ({ s with host := rest } : State).hostReads o)
  | seesIdle (rest : List HostEvent) (h : s.host = .awaitIdle :: rest) (b : s.busy = false)
      (e : t = ({ s with host := rest } : State).hostReads .busy)
  | take (w : Word) (rest : List HostEvent) (i : Instr) (h : s.host = .offer w :: rest) (b : s.busy = false)
      (d : decode s.cfg.profile w = .instr i) (e : exec i { s with host := rest, cmd := w } = .next t)
  | refuse (w : Word) (rest : List HostEvent) (c : RefuseCause) (h : s.host = .offer w :: rest) (b : s.busy = false)
      (d : decode s.cfg.profile w = .refused c)
      (e : t = ({ s with host := rest, cmd := w } : State).raiseRefused c)
  | resume (i : Instr) (b : s.busy = true) (h : s.hostWaits = true) (d : decode s.cfg.profile s.cmd = .instr i)
      (e : exec i s = .next t)
  | resumePass (i : Instr) (rest : List HostEvent) (b : s.busy = true) (h : s.host = .pass :: rest)
      (d : decode s.cfg.profile s.cmd = .instr i) (e : exec i { s with host := rest } = .next t)
  | pass (rest : List HostEvent) (b : s.busy = false) (h : s.host = .pass :: rest) (e : t = { s with host := rest })
  | idle (b : s.busy = false) (h : s.host = []) (e : t = s)

/-- What the resumption of a busy block can do when it answers a next state. -/
theorem resume_shape {s t : State} (h : s.resume = .next t) :
    ∃ i, decode s.cfg.profile s.cmd = .instr i ∧ exec i s = .next t := by
  simp only [State.resume] at h
  split at h
  · exact ⟨_, ‹_›, h⟩
  · cases h

/-- All that a step can do when it answers a next state. -/
theorem step_shape {s t : State} (h : step s = .next t) : StepShape s t := by
  simp only [step, State.advanceBlock] at h
  split at h
  · cases h; exact .reset _ ‹_› rfl
  · cases h; exact .read _ _ ‹_› rfl
  all_goals rename_i hh hb
  · simp only [State.take] at h; split at h
    · exact .take _ _ _ hh hb (by simpa using ‹_›) h
    · cases h; exact .refuse _ _ _ hh hb (by simpa using ‹_›) rfl
  · obtain ⟨i, hd, he⟩ := resume_shape h
    exact .resume i hb (by simp [State.hostWaits, hh]) hd he
  · cases h; exact .seesIdle _ hh hb rfl
  · obtain ⟨i, hd, he⟩ := resume_shape h
    exact .resume i hb (by simp [State.hostWaits, hh]) hd he
  · cases h; exact .pass _ hb hh rfl
  · obtain ⟨i, hd, he⟩ := resume_shape h
    exact .resumePass i _ hb hh (by simpa using hd) he
  · obtain ⟨i, hd, he⟩ := resume_shape h
    exact .resume i hb (by simp [State.hostWaits, hh]) hd he
  · cases h; exact .idle hb hh rfl

/-! ### Many steps -/

theorem host_run_succ (M : Host.Core) {s t : M.State} (n : Nat) (h : M.step s = .next t) :
    M.run (n + 1) s = M.run n t := by
  simp only [Host.Core.run, h]

theorem core_run_succ {s t : State} (n : Nat) (h : step s = .next t) :
    Sys2Proof.core.run (n + 1) s = Sys2Proof.core.run n t :=
  host_run_succ Sys2Proof.core n h

/-! ### Framing and capture -/

theorem lineAfter_append (b : Bool) (xs ys : List Call) :
    lineAfter b (xs ++ ys) = (lineAfter b xs).bind fun b' => lineAfter b' ys := by
  induction xs generalizing b with
  | nil => rfl
  | cons x xs ih =>
    simp only [List.cons_append, lineAfter]
    cases lineAfterCall b x with
    | none => rfl
    | some b' => exact ih b'

theorem eventsOf_call : ∀ (cs : List Call) (bs : List Byte), bs.length = cs.length →
    (eventsOf cs bs).map Event.call = cs := by
  intro cs
  induction cs with
  | nil => intro bs h; rfl
  | cons c cs ih =>
    intro bs h
    cases bs with
    | nil => simp at h
    | cons b bs =>
      have := ih bs (by simpa using h)
      simp only [eventsOf, List.zipWith_cons_cons, List.map_cons] at this ⊢
      rw [this]
      cases c <;> rfl

theorem capture_line : ∀ (ms : List MicroOp) (bs : List Byte) (r : Bool × Byte × Byte) (b : Bool),
    bs.length = ms.length → lineAfter r.1 (ms.map MicroOp.call) = some b → (capture ms bs r).1 = b := by
  intro ms
  induction ms with
  | nil => intro bs r b _ h; simpa [lineAfter, capture] using h
  | cons m ms ih =>
    intro bs r b hl h
    cases bs with
    | nil => simp at hl
    | cons x bs =>
      simp only [List.map_cons, lineAfter] at h
      have hl' : bs.length = ms.length := by simpa using hl
      obtain ⟨r1, r2, r3⟩ := r
      cases m <;> cases r1 <;> simp [lineAfterCall, MicroOp.call] at h <;> exact ih bs _ b hl' (by simpa using h)

theorem script_line (c : Config) (i : Instr) : lineAfter false (scriptCalls c i) = some false := by
  cases i <;> rfl

theorem serve_wf : ∀ (cs : List Call) (t : Transport) (r), t.wf = true → t.serve cs = some r → r.2.wf = true := by
  intro cs
  induction cs with
  | nil => intro t r h hs; simp [Transport.serve] at hs; subst hs; exact h
  | cons c cs ih =>
    intro t r h hs
    obtain ⟨i, t', bs, hc, hs', hr⟩ := serve_cons hs
    have := transport_call_wf h c
    rw [hc] at this
    exact ih t' (bs, r.2) this hs'

theorem capture_append : ∀ (ms ns : List MicroOp) (bs cs : List Byte) (r), bs.length = ms.length →
    capture (ms ++ ns) (bs ++ cs) r = capture ns cs (capture ms bs r) := by
  intro ms
  induction ms with
  | nil => intro ns bs cs r h; cases bs <;> simp at h; rfl
  | cons m ms ih =>
    intro ns bs cs r h
    cases bs with
    | nil => simp at h
    | cons b bs => cases m <;> exact ih ns bs cs _ (by simpa using h)

theorem reach_append (s : State) (ms ns : List MicroOp) (bs cs : List Byte) (t t') (h : bs.length = ms.length) :
    (s.reach ms bs t).reach ns cs t' = s.reach (ms ++ ns) (bs ++ cs) t' := by
  have : eventsOf (ms.map MicroOp.call ++ ns.map MicroOp.call) (bs ++ cs) =
      eventsOf (ms.map MicroOp.call) bs ++ eventsOf (ns.map MicroOp.call) cs := by
    unfold eventsOf; rw [List.zipWith_append (by simp [h])]
  simp [State.reach, capture_append _ _ _ _ _ h, this, BitVec.ofNat_add, BitVec.add_assoc]

/-- A transport that has the answers lined up serves the calls. -/
theorem serve_oracle : ∀ (cs : List Call) (bs : List Byte) (tl : List Answer) (d : Nat), bs.length = cs.length →
   (Transport.oracle (bs.map .returned ++ tl) d).serve cs = some (bs, .oracle tl d) := by
  intro cs
  induction cs with
  | nil => intro bs tl d h; cases bs <;> simp at h; rfl
  | cons c cs ih =>
    intro bs tl d h
    cases bs with
    | nil => simp at h
    | cons b bs =>
      exact serve_cons_of (t := .oracle (.returned b :: (bs.map .returned ++ tl)) d)
        (t' := .oracle (bs.map .returned ++ tl) d) (i := b) rfl (ih bs tl d (by simpa using h))

end Sys2Proof.Machine
end

