-- ==== Sys2Proof/Laws/Words.lean ====
section
/-!
SUPPORT. Command words by parts: a word is its `OP` and its low twelve bits, and the twelve bits that a reserved mask
leaves free are few (30_encoding.md R67, R75).
-/

namespace Sys2Proof

/-- A word is its `OP` followed by its low twelve bits (R67). -/
theorem word_eq_op_low (w : Word) : w = (opField w ++ w.extractLsb' 0 12 : BitVec (4 + 12)) := by
  apply BitVec.eq_of_getLsbD_eq
  intro i hi
  simp only [opField, BitVec.getLsbD_append, BitVec.getLsbD_extractLsb']
  by_cases h : i < 12
  · simp [h]
  · simp [h, show i - 12 < 4 by omega, show 12 + (i - 12) = i by omega]

/-- Bits that a mask clears, as a bound: where the mask is every bit from `k` up, what is left lies below `2 ^ k`. -/
theorem toNat_lt_of_high_bits_zero {x : BitVec 12} {k : Nat} (h : ∀ i, k ≤ i → i < 12 → x.getLsbD i = false) :
    x.toNat < 2 ^ k := by
  apply Nat.lt_pow_two_of_testBit
  intro i hi
  by_cases h12 : i < 12
  · exact h i hi h12
  · exact BitVec.getLsbD_of_ge x i (by omega)

theorem getLsbD_of_and_eq_zero {x m : BitVec 12} (h : x &&& m = 0#12) {i : Nat} (hm : m.getLsbD i = true) :
    x.getLsbD i = false := by
  have hb := congrArg (fun v => v.getLsbD i) h
  simpa [hm] using hb

/-- The free bits of `SETCTRL1` (R75). -/
theorem low_lt_of_mask_FF8 {x : BitVec 12} (h : x &&& 0xFF8#12 = 0#12) : x.toNat < 8 :=
  toNat_lt_of_high_bits_zero (k := 3) fun i h1 h2 =>
    getLsbD_of_and_eq_zero h (by interval_cases i <;> rfl)

/-- The free bits of `SETCTRL2` under `PALIGN` and of `SETCTRL3` (R75). -/
theorem low_lt_of_mask_FC0 {x : BitVec 12} (h : x &&& 0xFC0#12 = 0#12) : x.toNat < 64 :=
  toNat_lt_of_high_bits_zero (k := 6) fun i h1 h2 =>
    getLsbD_of_and_eq_zero h (by interval_cases i <;> rfl)

/-- The free bits of `SETCTRL2` under `P12` and `P16` (R74, R75). -/
theorem low_lt_of_mask_FC1 {x : BitVec 12} (h : x &&& 0xFC1#12 = 0#12) : x.toNat < 64 ∧ x.getLsbD 0 = false :=
  ⟨toNat_lt_of_high_bits_zero (k := 6) fun i h1 h2 =>
    getLsbD_of_and_eq_zero h (by interval_cases i <;> rfl), getLsbD_of_and_eq_zero h rfl⟩

/-- The free bits of the four sample reads (R75). -/
theorem low_lt_of_mask_FFC {x : BitVec 12} (h : x &&& 0xFFC#12 = 0#12) : x.toNat < 4 :=
  toNat_lt_of_high_bits_zero (k := 2) fun i h1 h2 =>
    getLsbD_of_and_eq_zero h (by interval_cases i <;> rfl)

/-- An operation without operands has no free bit (R75). -/
theorem low_eq_of_mask_FFF {x : BitVec 12} (h : x &&& 0xFFF#12 = 0#12) : x = 0#12 := by
  apply BitVec.eq_of_getLsbD_eq
  intro i hi
  rw [getLsbD_of_and_eq_zero h (by interval_cases i <;> rfl)]
  simp

end Sys2Proof
end

