-- ==== Sys2Proof/Tests/Slice0.lean ====
section
/-!
SUPPORT. Tests of one step each, and a witness for the hypotheses of every obligation. Expected values are those of
95_test_vectors.md and of the worked examples in the rule named beside a test, not the model's own answers.
-/

namespace Sys2Proof.Tests

open Sys2Proof.Machine

set_option maxRecDepth 4000

/-! ### Well-formedness: the one check, and what it refuses -/

theorem test_wf_align_palign : (Instr.setctrl2 .g2 .cont .intOff .drdyOff .wire4 .l16).wf .palign = true := by decide

theorem test_wf_refuses_align_p12 : (Instr.setctrl2 .g2 .cont .intOff .drdyOff .wire4 .l16).wf .p12 = false := by decide

theorem test_wf_refuses_align_p16 : (Instr.setctrl2 .g2 .cont .intOff .drdyOff .wire4 .l16).wf .p16 = false := by decide

theorem test_wf_no_align_p16 : (Instr.setctrl2 .g6 .latch .intOn .drdyOn .wire3 .r12).wf .p16 = true := by decide

/-! ### Decoding: words written out from 30_encoding.md R72 to R74, fields apart -/

theorem test_decode_getid : decode .palign 0b0001_0000_0000_0000#16 = .instr .getid := by decide

theorem test_decode_begin : decode .palign 0b0010_0000_0000_0000#16 = .instr .beginCheck := by decide

theorem test_decode_setctrl1 : decode .palign 0b0011_0000_0000_0110#16 = .instr (.setctrl1 .on .hz640) := by decide

theorem test_decode_setctrl2 :
    decode .palign 0b0100_0000_0010_1001#16 = .instr (.setctrl2 .g6 .cont .intOn .drdyOff .wire4 .l16) := by decide

theorem test_decode_setctrl2_other :
    decode .palign 0b0100_0000_0001_0110#16 = .instr (.setctrl2 .g2 .latch .intOff .drdyOn .wire3 .r12) := by decide

theorem test_decode_setctrl3 :
    decode .palign 0b0101_0000_0010_1001#16 = .instr (.setctrl3 .ckExt .ddOff .ffOn .fdsOff .hpc1024) := by decide

theorem test_decode_setctrl3_other :
    decode .palign 0b0101_0000_0001_0110#16 = .instr (.setctrl3 .ckInt .ddOn .ffOff .fdsOn .hpc2048) := by decide

theorem test_decode_rstfilt : decode .palign 0b0110_0000_0000_0000#16 = .instr .rstfilt := by decide

theorem test_decode_rdstatus : decode .palign 0b0111_0000_0000_0000#16 = .instr .rdstatus := by decide

theorem test_decode_rdh : decode .palign 0b1000_0000_0000_0001#16 = .instr (.rdh .y) := by decide

theorem test_decode_rdl : decode .palign 0b1001_0000_0000_0010#16 = .instr (.rdl .z) := by decide

theorem test_decode_rdd : decode .palign 0b1010_0000_0000_0000#16 = .instr (.rdd .x) := by decide

theorem test_decode_rdb : decode .palign 0b1011_0000_0000_0001#16 = .instr (.rdb .y) := by decide

theorem test_decode_bad_op : decode .palign 0xF0FF#16 = .refused .badOp := by decide

theorem test_decode_all_zero : decode .palign 0x0000#16 = .refused .badOp := by decide

theorem test_decode_bad_reserved : decode .palign 0x8103#16 = .refused .badReserved := by decide

theorem test_decode_bad_axis : decode .palign 0x8003#16 = .refused .badAxis := by decide

theorem test_decode_p12_reserves_align : decode .p12 0x4001#16 = .refused .badReserved := by decide

theorem test_decode_p16 : decode .p16 0x4014#16 = .instr (.setctrl2 .g2 .latch .intOff .drdyOn .wire4 .r12) := by decide

theorem test_decodeTableWord : decodeTableWord 16 0xB002 = some (.rdb .z) := by decide

/-! ### Codec functions (95_test_vectors.md 2.1, 2.2) -/

theorem test_addrByte : addrByte 0x28#6 1#1 1#1 = 0xE8#8 ∧ addrByte 0x23#6 1#1 0#1 = 0xA3#8 := by decide

theorem test_decDiscrete_low_unsigned :
    decDiscrete 0x00#8 0x80#8 = 0x0080#16 ∧ decDiscrete 0x80#8 0x00#8 = 0x8000#16 := by
  decide

theorem test_decBurst_order : decBurst 0x34#8 0x12#8 = 0x1234#16 := by decide

theorem test_encCtrl2_p16 :
    encCtrl2 { Config.standard with profile := .p16 } .g6 .latch .intOn .drdyOn .wire3 .r12 = 0xCF#8 := by
  decide

theorem test_encCtrl2_p12 :
    encCtrl2 { Config.standard with profile := .p12 } .g6 .latch .intOn .drdyOn .wire3 .r12 = 0xCE#8 := by
  decide

/-- The table of 40_codec_functions.md R95. -/
theorem test_cutoff : cutoffHz .hz2560 .hpc512 = 795 / 1000 ∧ cutoffHz .hz40 .hpc4096 = 1552734375 / 1000000000000 := by
  constructor <;> norm_num [cutoffHz, Rate.hz, Cfs.hpc]

/-! ### One step of each operation (95_test_vectors.md 2.5) -/

/-- After reset, with these bytes as the answers of the transport to the next calls, `SEL` and `DESEL` among them. -/
def answering (bs : List Byte) : State := { State.reset with transport := .oracle (bs.map .returned) 0 }

/-- The events and the readable result of the step that takes this word with these answers. -/
def taken (w : Word) (bs : List Byte) : Option (List Event × Option Word) :=
  (nextOf (step { answering bs with host := [.offer w] })).map fun t => (t.trace, t.readRes)

theorem test_getid : taken 0x1000#16 [0x00#8, 0x00#8, 0x3A#8, 0x00#8] =
    some ([.sel, .xfer 0x8F#8 0x00#8, .xfer 0x00#8 0x3A#8, .desel], some 0x003A#16) := by decide

theorem test_getid_ff : taken 0x1000#16 [0x11#8, 0x55#8, 0xFF#8, 0x22#8] =
    some ([.sel, .xfer 0x8F#8 0x55#8, .xfer 0x00#8 0xFF#8, .desel], some 0x00FF#16) := by decide

theorem test_begin : taken 0x2000#16 [0x00#8, 0x00#8, 0x3A#8, 0x00#8] =
    some ([.sel, .xfer 0x8F#8 0x00#8, .xfer 0x00#8 0x3A#8, .desel], some 0x0001#16) := by decide

theorem test_begin_mismatch : taken 0x2000#16 [0x00#8, 0x00#8, 0x3B#8, 0x00#8] =
    some ([.sel, .xfer 0x8F#8 0x00#8, .xfer 0x00#8 0x3B#8, .desel], some 0x0000#16) := by decide

theorem test_setctrl1_base : taken 0x3000#16 [0x00#8, 0x00#8, 0x00#8, 0x00#8] =
    some ([.sel, .xfer 0x20#8 0x00#8, .xfer 0x07#8 0x00#8, .desel], none) := by decide

theorem test_setctrl1 : taken 0x3007#16 [0x00#8, 0x00#8, 0x00#8, 0x00#8] =
    some ([.sel, .xfer 0x20#8 0x00#8, .xfer 0x77#8 0x00#8, .desel], none) := by decide

theorem test_setctrl2 : taken 0x403F#16 [0x00#8, 0x00#8, 0x00#8, 0x00#8] =
    some ([.sel, .xfer 0x21#8 0x00#8, .xfer 0xCF#8 0x00#8, .desel], none) := by decide

theorem test_setctrl2_fs : taken 0x4020#16 [0x00#8, 0x00#8, 0x00#8, 0x00#8] =
    some ([.sel, .xfer 0x21#8 0x00#8, .xfer 0x80#8 0x00#8, .desel], none) := by decide

theorem test_setctrl3 : taken 0x503F#16 [0x00#8, 0x00#8, 0x00#8, 0x00#8] =
    some ([.sel, .xfer 0x22#8 0x00#8, .xfer 0xF3#8 0x00#8, .desel], none) := by decide

theorem test_setctrl3_fds : taken 0x5006#16 [0x00#8, 0x00#8, 0x00#8, 0x00#8] =
    some ([.sel, .xfer 0x22#8 0x00#8, .xfer 0x12#8 0x00#8, .desel], none) := by decide

theorem test_rstfilt : taken 0x6000#16 [0x00#8, 0x77#8, 0x99#8, 0x00#8] =
    some ([.sel, .xfer 0xA3#8 0x77#8, .xfer 0x00#8 0x99#8, .desel], none) := by decide

theorem test_rdstatus : taken 0x7000#16 [0x00#8, 0x00#8, 0x0F#8, 0x00#8] =
    some ([.sel, .xfer 0xA7#8 0x00#8, .xfer 0x00#8 0x0F#8, .desel], some 0x000F#16) := by decide

theorem test_rdh_x : taken 0x8000#16 [0x00#8, 0x00#8, 0xFF#8, 0x00#8] =
    some ([.sel, .xfer 0xA9#8 0x00#8, .xfer 0x00#8 0xFF#8, .desel], some 0x00FF#16) := by decide

theorem test_rdh_y : taken 0x8001#16 [0x00#8, 0x00#8, 0x12#8, 0x00#8] =
    some ([.sel, .xfer 0xAB#8 0x00#8, .xfer 0x00#8 0x12#8, .desel], some 0x0012#16) := by decide

theorem test_rdl_x : taken 0x9000#16 [0x00#8, 0x00#8, 0x38#8, 0x00#8] =
    some ([.sel, .xfer 0xA8#8 0x00#8, .xfer 0x00#8 0x38#8, .desel], some 0x0038#16) := by decide

theorem test_rdl_z : taken 0x9002#16 [0x00#8, 0x00#8, 0x80#8, 0x00#8] =
    some ([.sel, .xfer 0xAC#8 0x00#8, .xfer 0x00#8 0x80#8, .desel], some 0x0080#16) := by decide

theorem test_rdd_x : taken 0xA000#16 [0x00#8, 0x00#8, 0xFF#8, 0x00#8, 0x00#8, 0x00#8, 0x38#8, 0x00#8] =
    some ([.sel, .xfer 0xA9#8 0x00#8, .xfer 0x00#8 0xFF#8, .desel,
      .sel, .xfer 0xA8#8 0x00#8, .xfer 0x00#8 0x38#8, .desel], some 0xFF38#16) := by decide

theorem test_rdd_z : taken 0xA002#16 [0x00#8, 0x00#8, 0x04#8, 0x00#8, 0x00#8, 0x00#8, 0x00#8, 0x00#8] =
    some ([.sel, .xfer 0xAD#8 0x00#8, .xfer 0x00#8 0x04#8, .desel,
      .sel, .xfer 0xAC#8 0x00#8, .xfer 0x00#8 0x00#8, .desel], some 0x0400#16) := by decide

theorem test_rdb_x : taken 0xB000#16 [0x00#8, 0x00#8, 0x38#8, 0xFF#8, 0x00#8] =
    some ([.sel, .xfer 0xE8#8 0x00#8, .xfer 0x00#8 0x38#8, .xfer 0x00#8 0xFF#8, .desel], some 0xFF38#16) := by decide

theorem test_rdb_y : taken 0xB001#16 [0x00#8, 0x00#8, 0x7B#8, 0x00#8, 0x00#8] =
    some ([.sel, .xfer 0xEA#8 0x00#8, .xfer 0x00#8 0x7B#8, .xfer 0x00#8 0x00#8, .desel], some 0x007B#16) := by decide

/-! ### Refusal, reset, waiting, the host's read -/

/-- 60_exceptions.md R125: the first code stays. -/
theorem test_refusal_keeps_first_code :
    (nextOf (step { State.reset with host := [.offer 0xB003#16], err := true, errc := 1#2 })).map
      (fun t => (t.cmd, t.err, t.errc, t.trace)) = some (0xB003#16, true, 1#2, []) := by decide

theorem test_refusal_code :
    (nextOf (step { State.reset with host := [.offer 0xB003#16] })).map (fun t => (t.err, t.errc, t.busy)) =
      some (true, 3#2, false) := by decide

/-- `RDD X` in its micro-step 2: selected, the address sent, the high byte awaited. -/
def inRdd (as : List Answer) (host : List HostEvent) : State :=
  { State.reset with
    busy := true
    seq := 2#3
    sel := true
    cmd := 0xA000#16
    trace := [.sel, .xfer 0xA9#8 0x00#8]
    host := host
    transport := .oracle as 0 }

/-- 70_reset_and_hazards.md R149: the call has not returned. -/
theorem test_wait : (nextOf (step (inRdd [.pending] []))) = some (inRdd [] []) := by decide

/-- 10_state.md R30: the byte is captured, the next call has not returned. -/
theorem test_micro_step :
    (nextOf (step (inRdd [.returned 0x12#8, .pending] []))).map (fun t => (t.seq, t.hb, t.busy, t.resv)) =
      some (3#3, 0x12#8, true, false) := by decide

/-- 70_reset_and_hazards.md R136: the line is released, which the transport sees as a `DESEL`. -/
theorem test_reset_while_busy :
    (nextOf (step (inRdd [] [.reset]))).map (fun t => (t.busy, t.seq, t.sel, t.trace)) =
      some (false, 0#3, false, [.sel, .xfer 0xA9#8 0x00#8, .desel]) := by decide

/-- 10_state.md R21, 93_implementation_defined.md U12: the reading has no value, and the machine goes on. -/
theorem test_read_without_result :
    (nextOf (step { State.reset with host := [.read .res] })).map (fun t => (t.reads, t.host, t.hostAtFault)) =
      some ([.res none], [], true) := by decide

theorem test_read_result :
    (nextOf (step { State.reset with host := [.read .res], res := 0x1234#16, resv := true })).map (fun t => t.reads) =
      some [.res (some 0x1234#16)] := by decide

/-- 10_state.md R18: the host sees `BUSY = 1` while the operation waits; watching it, the host does not go on. -/
theorem test_read_busy : (nextOf (step (inRdd [] [.read .busy]))).map (fun t => t.reads) = some [.busy true] := by
  decide

theorem test_await_holds_while_busy :
    (nextOf (step (inRdd [.pending] [.awaitIdle, .read .res]))).map (fun t => (t.host, t.reads)) =
      some ([.awaitIdle, .read .res], []) := by decide

theorem test_await_sees_idle :
    (nextOf (step { State.reset with host := [.awaitIdle, .read .res] })).map (fun t => (t.host, t.reads)) =
      some ([.read .res], [.busy false]) := by decide

/-- The host passes: the block performs one micro-step, and the `RESET` behind it comes after that. -/
theorem test_pass_then_reset :
    (nextOf (step (inRdd [.returned 0x12#8, .pending] [.pass, .reset]))).map (fun t => (t.seq, t.hb, t.host)) =
      some (3#3, 0x12#8, [.reset]) := by decide

/-! ### The reference device and the assembler (20_memory.md R66, 30_encoding.md R83 to R85) -/

/-- The reference device with `OUTX` holding `0x1234`, low byte at the lower address (20_memory.md R53). -/
def onDevice (host : List HostEvent) : State :=
  { State.reset with host := host, transport := .reference (RefDevice.fresh [(0x28, 0x34#8), (0x29, 0x12#8)]) }

theorem test_rdb_on_device :
    (nextOf (step (onDevice [.offer 0xB000#16]))).bind State.readRes = some 0x1234#16 := by decide

theorem test_setctrl1_on_device :
    (nextOf (step (onDevice [.offer 0x3005#16]))).map (fun t => t.transport) =
      some (.reference { RefDevice.fresh [(0x20, 0x57#8), (0x28, 0x34#8), (0x29, 0x12#8)] with
        p := 0x20#6, phase := .data }) := by decide

theorem test_assemble :
    assembleLine .palign none "SETCTRL2 G2, LATCH, INT_OFF, DRDY_ON, WIRE4, L16 ; example".toList = some 0x4015#16 := by
  decide

theorem test_assemble_rdaxis :
    assembleLine .palign (some .burst) "RDAXIS Y".toList = some 0xB001#16 ∧
      assembleLine .p12 (some .burst) "RDAXIS Y".toList = none := by decide

theorem test_assemble_number : assembleLine .palign none ".word 0x8003".toList = some 0x8003#16 := by decide

/-! ### Witnesses: a concrete case for the hypotheses of each obligation, named after it -/

theorem witness_AddrByteIsFlagsThenAddress : addrByte 0x28#6 1#1 0#1 = addrByte 0x28#6 1#1 0#1 := rfl

/-- A build of each revision with the other alignment bits. -/
def buildP12 : Config := { Config.standard with profile := .p12, alignBit := .bit4 }

def buildP16 : Config := { Config.standard with profile := .p16, alignBit := .bit4 }

def buildPalign : Config := { Config.standard with alignBit := .bit4 }

theorem witness_Ctrl2ByteByProfile :
    buildP12.profile = .p12 ∧ buildP16.profile = .p16 ∧ buildPalign.profile = .palign := by decide

theorem witness_PalignContainsOtherProfiles :
    buildPalign.profile = .palign ∧ buildP12.alignBit = buildPalign.alignBit ∧ buildP12.profile = .p12 ∧
      buildP16.alignBit = buildPalign.alignBit ∧ buildP16.profile = .p16 := by decide

theorem witness_Ctrl1OptionsCompose :
    ((Pwr.on = .off ∧ Pwr.on = .off) ∨ (Pwr.off = .off ∧ Pwr.on = .on)) ∧
      ((Rate.hz40 = .hz40 ∧ Rate.hz640 = .hz640) ∨ (Rate.hz640 = .hz40 ∧ Rate.hz640 = .hz40)) := by decide

/-- `G6` and `L16` from one tuple each, the rest zero. -/
theorem witness_Ctrl2OptionsCompose :
    Config.standard.profile.admits .l16 = true ∧
      ((Fs.g6 = .g2 ∧ Fs.g6 = .g2) ∨ (Fs.g2 = .g2 ∧ Fs.g6 = .g6)) ∧
      ((Bdu.cont = .cont ∧ Bdu.cont = .cont) ∨ (Bdu.cont = .cont ∧ Bdu.cont = .cont)) ∧
      ((Ien.intOff = .intOff ∧ Ien.intOff = .intOff) ∨ (Ien.intOff = .intOff ∧ Ien.intOff = .intOff)) ∧
      ((Drdy.drdyOff = .drdyOff ∧ Drdy.drdyOff = .drdyOff) ∨ (Drdy.drdyOff = .drdyOff ∧ Drdy.drdyOff = .drdyOff)) ∧
      ((Sim.wire4 = .wire4 ∧ Sim.wire4 = .wire4) ∨ (Sim.wire4 = .wire4 ∧ Sim.wire4 = .wire4)) ∧
      ((Align.r12 = .r12 ∧ Align.l16 = .l16) ∨ (Align.l16 = .r12 ∧ Align.l16 = .r12)) := by decide

/-- `CK_EXT` and `HPC4096` from one tuple each, the rest zero. -/
theorem witness_Ctrl3OptionsCompose :
    ((Eck.ckExt = .ckInt ∧ Eck.ckExt = .ckInt) ∨ (Eck.ckInt = .ckInt ∧ Eck.ckExt = .ckExt)) ∧
      ((Hpdd.ddOff = .ddOff ∧ Hpdd.ddOff = .ddOff) ∨ (Hpdd.ddOff = .ddOff ∧ Hpdd.ddOff = .ddOff)) ∧
      ((Hpff.ffOff = .ffOff ∧ Hpff.ffOff = .ffOff) ∨ (Hpff.ffOff = .ffOff ∧ Hpff.ffOff = .ffOff)) ∧
      ((Fds.fdsOff = .fdsOff ∧ Fds.fdsOff = .fdsOff) ∨ (Fds.fdsOff = .fdsOff ∧ Fds.fdsOff = .fdsOff)) ∧
      ((Cfs.hpc512 = .hpc512 ∧ Cfs.hpc4096 = .hpc4096) ∨ (Cfs.hpc4096 = .hpc512 ∧ Cfs.hpc4096 = .hpc512)) := by decide

theorem witness_ControlDecodersInvertEncoders :
    decCtrl1 0x57#8 = some (.on, .hz160) ∧ Config.standard.profile.admits .l16 = true ∧
      decCtrl2 Config.standard 0x45#8 = some (.g2, .latch, .intOff, .drdyOn, .wire4, .l16) ∧
      decCtrl3 0x12#8 = some (.ckInt, .ddOff, .ffOff, .fdsOn, .hpc2048) :=
  ⟨rfl, rfl, rfl, rfl⟩

theorem witness_EncodersNeverSetUnusedBits :
    5 ≠ Config.standard.alignBit.position ∧ 4 ≠ Config.standard.alignBit.position ∧ 0 ≠ buildP16.alignBit.position := by
  decide

theorem witness_DecodeOfEncode :
    (Instr.setctrl2 .g6 .cont .intOff .drdyOff .wire4 .l16).wf .palign = true ∧
      (Instr.setctrl2 .g6 .cont .intOff .drdyOff .wire4 .r12).wf .p16 = true := by decide

theorem witness_AcceptedWordIsItsEncoding :
    decode .p12 0x403E#16 = .instr (.setctrl2 .g6 .latch .intOn .drdyOn .wire3 .r12) := by
  decide

theorem witness_WordSelectsItsTableRow :
    decode .palign 0x8002#16 = .instr (.rdh .z) ∧ 0x8002#16 &&& rowMask .palign (.rdh .x) = rowMatch (.rdh .x) ∧
      (0x8#4 ≤ (Instr.rdh .x).op → (0x8002#16 : Word).extractLsb' 0 2 ≠ 3#2) := by decide

theorem witness_RefuseCodeInOrder : Ctrl2Profile.p12 ≠ .palign ∧ Ctrl2Profile.palign = .palign := by decide

theorem witness_ProfileChangesOnlySetctrl2 :
    opField 0xB002#16 ≠ 0x4#4 ∧ (0x4014#16 : Word).extractLsb' 0 1 = 0#1 ∧
      (opField 0x4041#16 = 0x4#4 ∧ (0x4041#16 : Word).extractLsb' 6 6 ≠ 0#6) ∧ opField 0x4015#16 = 0x4#4 ∧
      (0x4015#16 : Word).extractLsb' 6 6 = 0#6 ∧ (0x4015#16 : Word).extractLsb' 0 1 = 1#1 := by decide

theorem witness_AssembleOfListing : (Instr.setctrl3 .ckExt .ddOn .ffOn .fdsOn .hpc4096).wf .palign = true := by decide

theorem witness_OperationsAreWholeTransactions :
    Txn.burst 0x28#6 ∈ transactions Config.standard (.rdb .x) ∧ Txn.resetFilter ∈ transactions Config.standard .rstfilt := by
  decide

/-- A transport that answers four calls, then waits for what the free value says. -/
def four : State := answering [0x00#8, 0x55#8, 0x3A#8, 0x00#8]

def five : State := answering [0x00#8, 0x55#8, 0x34#8, 0x12#8, 0x00#8]

def eight : State := answering [0x00#8, 0x55#8, 0x12#8, 0x00#8, 0x00#8, 0x55#8, 0x34#8, 0x00#8]

theorem witness_Setctrl1WritesItsByte :
    opField 0x3005#16 = 0x3#4 ∧ four.busy = false ∧
      four.transport.serve
        [.sel, .xfer (addrByte Config.standard.addrCtrl1 0#1 0#1),
          .xfer (encCtrl1 .on .hz160), .desel] =
        some ([0x00#8, 0x55#8, 0x3A#8, 0x00#8], .oracle [] 0) := by decide

theorem witness_Setctrl2WritesItsByte :
    opField 0x4015#16 = 0x4#4 ∧ four.busy = false ∧
      four.transport.serve
        [.sel, .xfer (addrByte Config.standard.addrCtrl2 0#1 0#1),
          .xfer (encCtrl2 Config.standard .g2 .latch .intOff .drdyOn .wire4 .l16), .desel] =
        some ([0x00#8, 0x55#8, 0x3A#8, 0x00#8], .oracle [] 0) := by decide

theorem witness_Setctrl3WritesItsByte :
    opField 0x5006#16 = 0x5#4 ∧ four.busy = false ∧
      four.transport.serve
        [.sel, .xfer (addrByte Config.standard.addrCtrl3 0#1 0#1),
          .xfer (encCtrl3 .ckInt .ddOff .ffOff .fdsOn .hpc2048), .desel] =
        some ([0x00#8, 0x55#8, 0x3A#8, 0x00#8], .oracle [] 0) := by decide

theorem witness_GetidReturnsRawIdentity :
    opField 0x1000#16 = 0x1#4 ∧ four.busy = false ∧
      four.transport.serve
        [.sel, .xfer (addrByte Config.standard.addrWhoAmI 1#1 0#1),
          .xfer (Config.standard.filler), .desel] =
        some ([0x00#8, 0x55#8, 0x3A#8, 0x00#8], .oracle [] 0) := by decide

theorem witness_BeginReportsIdentityMatch :
    opField 0x2000#16 = 0x2#4 ∧ four.busy = false ∧
      four.transport.serve
        [.sel, .xfer (addrByte Config.standard.addrWhoAmI 1#1 0#1),
          .xfer (Config.standard.filler), .desel] =
        some ([0x00#8, 0x55#8, 0x3A#8, 0x00#8], .oracle [] 0) := by decide

theorem witness_RdstatusReturnsRawStatus :
    opField 0x7000#16 = 0x7#4 ∧ four.busy = false ∧
      four.transport.serve
        [.sel, .xfer (addrByte Config.standard.addrStatus 1#1 0#1),
          .xfer (Config.standard.filler), .desel] =
        some ([0x00#8, 0x55#8, 0x3A#8, 0x00#8], .oracle [] 0) := by decide

theorem witness_RstfiltKeepsReadFraming :
    opField 0x6000#16 = 0x6#4 ∧ four.busy = false ∧
      four.transport.serve [.sel, .xfer (addrByte Config.standard.addrHpReset 1#1 0#1), .xfer (0x00#8), .desel] =
        some ([0x00#8, 0x55#8, 0x3A#8, 0x00#8], .oracle [] 0) := by decide

theorem witness_RdhReturnsHighByte :
    opField 0x8001#16 = 0x8#4 ∧ four.busy = false ∧
      four.transport.serve
        [.sel, .xfer (addrByte (Config.standard.outH .y) 1#1 0#1),
          .xfer (Config.standard.filler), .desel] =
        some ([0x00#8, 0x55#8, 0x3A#8, 0x00#8], .oracle [] 0) := by decide

theorem witness_RdlReturnsLowByte :
    opField 0x9002#16 = 0x9#4 ∧ four.busy = false ∧
      four.transport.serve
        [.sel, .xfer (addrByte (Config.standard.outL .z) 1#1 0#1),
          .xfer (Config.standard.filler), .desel] =
        some ([0x00#8, 0x55#8, 0x3A#8, 0x00#8], .oracle [] 0) := by decide

theorem witness_RddReadsHighThenLow :
    opField 0xA001#16 = 0xA#4 ∧ eight.busy = false ∧
      eight.transport.serve
        [.sel, .xfer (addrByte (Config.standard.outH .y) 1#1 0#1), .xfer Config.standard.filler, .desel,
          .sel, .xfer (addrByte (Config.standard.outL .y) 1#1 0#1), .xfer Config.standard.filler, .desel] =
        some ([0x00#8, 0x55#8, 0x12#8, 0x00#8, 0x00#8, 0x55#8, 0x34#8, 0x00#8], .oracle [] 0) := by decide

theorem witness_RdbReadsBurst :
    opField 0xB002#16 = 0xB#4 ∧ five.busy = false ∧
      five.transport.serve
        [.sel, .xfer (addrByte (Config.standard.outL .z) 1#1 1#1), .xfer Config.standard.filler,
          .xfer Config.standard.filler, .desel] =
        some ([0x00#8, 0x55#8, 0x34#8, 0x12#8, 0x00#8], .oracle [] 0) := by decide

/-- The clauses on an operation that has not completed. -/
theorem witness_sample_reads_in_progress :
    (∃ t, exec (.rdd .x) (inRdd [.pending] []) = .next t ∧ t.busy = true) ∧
      ∃ t, exec (.rdb .x) { State.reset with transport := .oracle [.pending] 0 } = .next t ∧ t.busy = true :=
  ⟨⟨_, rfl, rfl⟩, _, rfl, rfl⟩

/-- One operation that completes and returns nothing, one that stays busy. -/
theorem witness_OperationsLeaveTheRestUnchanged :
    (∃ t, exec .rstfilt four = .next t) ∧ returnsValue .rstfilt = false ∧
      ∃ t, exec (.rdd .x) (inRdd [.pending] []) = .next t ∧ t.busy = true := ⟨⟨_, rfl⟩, rfl, _, rfl, rfl⟩

/-- The registers of `onDevice`. -/
def outX : RefDevice := RefDevice.fresh [(0x28, 0x34#8), (0x29, 0x12#8)]

theorem witness_SettersWriteOneDeviceRegister :
    (onDevice []).busy = false ∧ (onDevice []).transport = .reference outX ∧ Memory.wf outX.reg = true := by decide

theorem witness_ReadsLeaveDeviceRegisters :
    (onDevice []).busy = false ∧ (onDevice []).transport = .reference outX ∧ returnsValue (.rdb .x) = true := by decide

theorem witness_BothProtocolsReadTheSameSample :
    (onDevice []).busy = false ∧ (onDevice []).transport = .reference outX ∧ (onDevice []).cfg.Valid := by decide

/-- The clauses: taken when idle, resumed when busy and the host waits or passes, placed as a table word. -/
theorem witness_StepRunsTheDecodedOperation :
    ({ four with host := [.offer 0x1000#16] } : State).busy = false ∧ decode four.cfg.profile 0x1000#16 = .instr .getid ∧
      (inRdd [] []).busy = true ∧ (inRdd [] [.awaitIdle]).hostWaits = true ∧ (inRdd [] [.pass]).host = [.pass] ∧
      decode (inRdd [] []).cfg.profile (inRdd [] []).cmd = .instr (.rdd .x) ∧
      decode State.reset.cfg.profile 0xB002#16 = .instr (.rdb .z) := by decide

theorem witness_OfferIsHeldWhileBusy :
    (inRdd [.pending] [.offer 0x1000#16]).busy = true ∧ (inRdd [.pending] [.offer 0x1000#16]).host = [.offer 0x1000#16] ∧
      ({ four with host := [.offer 0x1000#16, .read .res] } : State).busy = false := by decide

theorem witness_IdleBlockWaits :
    State.reset.busy = false ∧ State.reset.host = [] ∧ ({ State.reset with host := [.pass, .reset] } : State).busy = false := by
  decide

/-- A reading of each kind, a step that is no take and no reset, and a reading without a result. -/
theorem witness_HostReadsLevelOutputs :
    ({ State.reset with host := [.read .errc] } : State).host = [.read .errc] ∧
      (∃ t, step { State.reset with host := [.read .busy] } = .next t) ∧ State.reset.busy = false ∧
      ([.read .busy] : List HostEvent).head? ≠ some .reset ∧
      (∀ w, ([.read .busy] : List HostEvent).head? ≠ some (.offer w)) ∧
      ({ State.reset with host := [.read .res] } : State).resv = false :=
  ⟨rfl, ⟨_, rfl⟩, rfl, by decide, fun w h => (by cases h), rfl⟩

/-- A refused word, and the step in which `ERR` rises. -/
theorem witness_RefusedWordSetsOnlyTheFlags :
    decode State.reset.cfg.profile 0x8003#16 = .refused .badAxis ∧ State.reset.busy = false ∧
      ∃ t, step { State.reset with host := [.offer 0x8003#16] } = .next t ∧ State.reset.err = false ∧ t.err = true :=
  ⟨rfl, rfl, _, rfl, rfl, rfl⟩

/-- A block that has refused a word, and words that it then executes and refuses. -/
def gone (host : List HostEvent) : State := { four with err := true, errc := 1#2, resv := true, host := host }

theorem witness_RefusalFlagsAreSticky :
    (∃ t, step (gone [.offer 0x1000#16]) = .next t) ∧ (gone [.offer 0x1000#16]).err = true ∧
      (gone [.offer 0x1000#16]).host.head? ≠ some .reset ∧ decode four.cfg.profile 0x8003#16 = .refused .badAxis ∧
      (∃ t, step (gone [.reset]) = .next t) ∧ decode four.cfg.profile 0x1000#16 = .instr .getid :=
  ⟨⟨_, rfl⟩, rfl, by decide, rfl, ⟨_, rfl⟩, rfl⟩

theorem witness_ResetClearsTheBlock :
    (inRdd [] [.reset, .offer 0x1000#16]).host = .reset :: [.offer 0x1000#16] ∧
      decode (inRdd [] []).cfg.profile 0x1000#16 = .instr .getid ∧
      (∃ t, step (gone [.offer 0x1000#16]) = .next t) ∧ (gone [.offer 0x1000#16]).host.head? ≠ some .reset ∧
      (gone [.offer 0x1000#16]).err = true ∧ (gone [.offer 0x1000#16]).resv = true :=
  ⟨rfl, rfl, ⟨_, rfl⟩, by decide, rfl, rfl⟩

theorem witness_ResetAbandonsTheOperation :
    (inRdd [] [.reset]).busy = true ∧ (inRdd [] [.reset]).host = [.reset] ∧ (inRdd [] [.reset]).sel = true := by decide

theorem witness_UnreturnedCallHangsTheBlock :
    (inRdd (List.replicate 3 .pending ++ [.returned 0x12#8]) [.offer 0x1000#16]).busy = true ∧
      (inRdd (List.replicate 3 .pending ++ [.returned 0x12#8]) [.offer 0x1000#16]).hostWaits = true ∧
      decode (inRdd [] []).cfg.profile (inRdd [] []).cmd = .instr (.rdd .x) ∧
      (inRdd [] []).seq.toNat < (script (inRdd [] []).cfg (.rdd .x)).length := by decide

/-- Both clauses of the micro-step. -/
theorem witness_MicroStepPerformsItsEntry :
    (inRdd [] []).busy = true ∧ (inRdd [] []).hostWaits = true ∧
      decode (inRdd [] []).cfg.profile (inRdd [] []).cmd = .instr (.rdd .x) ∧
      (script (inRdd [] []).cfg (.rdd .x))[(inRdd [] []).seq.toNat]? = some (.captureHigh 0x00#8) ∧
      (inRdd [.pending] []).transport = .oracle (.pending :: []) 0 ∧
      (inRdd [.returned 0x12#8, .pending] []).transport = .oracle (.returned 0x12#8 :: .pending :: []) 0 ∧
      (inRdd [] []).seq.toNat + 1 < (script (inRdd [] []).cfg (.rdd .x)).length := by decide

/-- `RDD X` in its last micro-step, both bytes captured. -/
def atLast : State := { inRdd [.returned 0x00#8] [] with seq := 7#3, hb := 0x12#8, lb := 0x34#8 }

theorem witness_LastEntryCompletes :
    atLast.busy = true ∧ atLast.hostWaits = true ∧ decode atLast.cfg.profile atLast.cmd = .instr (.rdd .x) ∧
      atLast.seq.toNat + 1 = (script atLast.cfg (.rdd .x)).length ∧
      atLast.transport = .oracle (.returned 0x00#8 :: []) 0 := by decide

/-- Answers with waits among them: `GETID` on a slow transport. -/
def slow : List Answer :=
  [.pending, .returned 0x00#8, .returned 0x55#8, .pending, .pending, .returned 0x3A#8, .returned 0x00#8]

def slowGetid : State := { State.reset with host := [.offer 0x1000#16], transport := .oracle (slow ++ [.pending]) 0 }

theorem witness_WaitingChangesNothingButTime :
    slowGetid.busy = false ∧ slowGetid.host = [.offer 0x1000#16] ∧
      decode slowGetid.cfg.profile 0x1000#16 = .instr .getid ∧ slowGetid.transport = .oracle (slow ++ [.pending]) 0 ∧
      (slow.filterMap answerByte).length = (script slowGetid.cfg .getid).length ∧ slow.getLast? ≠ some .pending := by
  decide

/-- The host of `slowGetid` that watches for the end and reads the result. -/
def watchedGetid : State := { slowGetid with host := [.offer 0x1000#16, .awaitIdle, .read .res] }

theorem witness_HostSeesTheOperationReturn :
    watchedGetid.busy = false ∧ watchedGetid.host = [.offer 0x1000#16, .awaitIdle, .read .res] ∧
      decode watchedGetid.cfg.profile 0x1000#16 = .instr .getid ∧
      watchedGetid.transport = .oracle (slow ++ [.pending]) 0 ∧
      (slow.filterMap answerByte).length = (script watchedGetid.cfg .getid).length ∧
      slow.getLast? ≠ some .pending ∧ resultOfBytes .getid (slow.filterMap answerByte) = some 0x003A#16 ∧
      0 < 3 ∧ 3 ≤ slow.count .pending := by
  decide

/-- Two idle blocks with the same transport and build that differ in the rest. -/
theorem witness_OperationsAreStateless :
    four.busy = false ∧ (gone []).busy = false ∧ (gone []).cfg = four.cfg ∧ (gone []).transport = four.transport ∧
      ∃ s' u', exec .getid four = .next s' ∧ exec .getid (gone []) = .next u' ∧ s'.busy = false ∧
        returnsValue .getid = true := ⟨rfl, rfl, rfl, rfl, _, _, rfl, rfl, rfl, rfl⟩

/-- A block in the middle of an operation meets the invariant. -/
theorem witness_StepKeepsInvariant :
    (inRdd [.returned 0x12#8, .pending] []).Inv ∧ ∃ t, step (inRdd [.returned 0x12#8, .pending] []) = .next t :=
  ⟨⟨fun h => (by cases h), fun _ => ⟨.rdd .x, rfl, by decide, by decide⟩, by decide, by decide, by decide⟩, _, rfl⟩

/-- An idle block whose host reads a result that is not there meets the invariant. -/
theorem witness_NothingStopsTheMachine : ({ State.reset with host := [.read .res] } : State).Inv :=
  ⟨fun _ => ⟨rfl, rfl⟩, fun h => (by cases h), by decide, by decide, by decide⟩

theorem witness_StepKeepsConfigurationAndHistory : ∃ t, step (inRdd [.pending] [.offer 0x1000#16]) = .next t := ⟨_, rfl⟩

end Sys2Proof.Tests
end

section
/-!
PROOFS. The history of a run (00_scope.md R8, R14; 70_reset_and_hazards.md R145): no step writes the configuration, and
the transport events and the host's readings are only added to. Said once as a relation between two states that is
reflexive and transitive, shown for each operation through `exec_shape` and for each step through `step_shape`.
-/

namespace Sys2Proof.Machine

/-- `t` belongs to the same build as `s` and has the history of `s` as the first part of its own. -/
structure State.ExtendedBy (s t : State) : Prop where
  cfg : t.cfg = s.cfg
  trace : s.trace <+: t.trace
  reads : s.reads <+: t.reads

@[refl] theorem State.ExtendedBy.refl (s : State) : s.ExtendedBy s :=
  ⟨rfl, List.prefix_rfl, List.prefix_rfl⟩

@[trans] theorem State.ExtendedBy.trans {s t u : State} (hst : s.ExtendedBy t) (htu : t.ExtendedBy u) :
    s.ExtendedBy u :=
  ⟨htu.cfg.trans hst.cfg, hst.trace.trans htu.trace, hst.reads.trans htu.reads⟩

/-- An update of registers, host or transport alone extends the history by nothing. -/
theorem State.ExtendedBy.of_eq {s t : State} (hcfg : t.cfg = s.cfg) (htrace : t.trace = s.trace)
    (hreads : t.reads = s.reads) : s.ExtendedBy t :=
  ⟨hcfg, htrace ▸ List.prefix_rfl, hreads ▸ List.prefix_rfl⟩

/-! ### The updates that write the history -/

theorem extendedBy_reach (s : State) (ms : List MicroOp) (bs : List Byte) (t : Transport) :
    s.ExtendedBy (s.reach ms bs t) :=
  ⟨rfl, List.prefix_append _ _, List.prefix_rfl⟩

theorem extendedBy_hostReads (s : State) (o : Output) : s.ExtendedBy (s.hostReads o) :=
  ⟨rfl, List.prefix_rfl, List.prefix_append _ _⟩

/-- `RESET` keeps the events of the run, and adds a `DESEL` when the line is selected (70_reset_and_hazards.md R136). -/
theorem extendedBy_resetBlock (s : State) : s.ExtendedBy s.resetBlock where
  cfg := rfl
  trace := by
    rw [resetBlock_trace]
    split
    · exact List.prefix_append _ _
    · exact List.prefix_rfl
  reads := List.prefix_rfl

/-! ### Operations and steps -/

theorem extendedBy_completed (s : State) (r : Byte → Byte → Option Word) : s.ExtendedBy (s.completed r) :=
  .of_eq (completed_cfg s r) (completed_trace s r) (completed_reads s r)

/-- An operation only adds to the history, whether it completes or is left waiting for a call. -/
theorem exec_extendedBy {i : Instr} {s t : State} (h : exec i s = .next t) : s.ExtendedBy t := by
  obtain ⟨ms, s0, -, hstart, hend⟩ := exec_shape h
  have hs0 : s.ExtendedBy s0 := by
    rcases hstart with ⟨-, rfl, -⟩ | ⟨-, rfl, -⟩
    · exact .refl _
    · exact .of_eq rfl rfl rfl
  rcases hend with ⟨bs, t', -, rfl⟩ | ⟨pre, m, post, bs, t1, t2, -, -, -, rfl⟩
  · exact hs0.trans ((extendedBy_reach s0 ms bs t').trans (extendedBy_completed _ _))
  · exact hs0.trans (extendedBy_reach s0 pre bs t2)

theorem step_extendedBy {s t : State} (h : step s = .next t) : s.ExtendedBy t := by
  have htaken (rest : List HostEvent) (w : Word) : s.ExtendedBy { s with host := rest, cmd := w } :=
    .of_eq rfl rfl rfl
  have hheard (rest : List HostEvent) : s.ExtendedBy { s with host := rest } := htaken rest s.cmd
  cases step_shape h with
  | reset rest _ e => exact e ▸ (hheard rest).trans (extendedBy_resetBlock _)
  | read o rest _ e => exact e ▸ (hheard rest).trans (extendedBy_hostReads _ o)
  | seesIdle rest _ _ e => exact e ▸ (hheard rest).trans (extendedBy_hostReads _ .busy)
  | take w rest _ _ _ _ e => exact (htaken rest w).trans (exec_extendedBy e)
  | refuse w rest _ _ _ _ e => exact e ▸ (htaken rest w).trans (.of_eq rfl rfl rfl)
  | resume _ _ _ _ e => exact exec_extendedBy e
  | resumePass _ rest _ _ _ e => exact (hheard rest).trans (exec_extendedBy e)
  | pass rest _ _ e => exact e ▸ hheard rest
  | idle _ _ e => exact e ▸ .refl s

/-- Settles O58: each way a step answers a next state extends the history (`step_extendedBy`). -/
theorem stepKeepsConfigurationAndHistory : Obligations.StepKeepsConfigurationAndHistory := by
  intro s t h
  obtain ⟨hcfg, htrace, hreads⟩ := step_extendedBy h
  exact ⟨hcfg, htrace, hreads⟩

end Sys2Proof.Machine
end

section
/-!
PROOFS. Which branch of `step` is taken (10_state.md R16, R18, R29, R30), one lemma for each event at the head of the
host's list, and the fields of a completed operation (R21, R25, R31) as one record.
-/

namespace Sys2Proof.Machine

/-! ### The branches of a step -/

/-- The host reads an output in any state (R18). -/
theorem step_read {s : State} {o : Output} {rest : List HostEvent} (hh : s.host = .read o :: rest) :
    step s = .next ((s.withHost rest).hostReads o) := by
  simp [step, State.advanceBlock, hh]

/-- A host that watches `BUSY` goes on once the block is idle (R18). -/
theorem step_awaitIdle {s : State} {rest : List HostEvent} (hb : s.busy = false) (hh : s.host = .awaitIdle :: rest) :
    step s = .next ((s.withHost rest).hostReads .busy) := by
  simp [step, State.advanceBlock, hh, hb]

theorem step_reset {s : State} {rest : List HostEvent} (hh : s.host = .reset :: rest) :
    step s = .next (s.withHost rest).resetBlock := by
  simp [step, State.advanceBlock, hh]

/-- An idle block takes the offered word (R16). -/
theorem step_offer_idle {s : State} {w : Word} {rest : List HostEvent} (hb : s.busy = false)
    (hh : s.host = .offer w :: rest) : step s = (s.withHost rest).take w := by
  simp [step, State.advanceBlock, hh, hb]

/-- The take of a word that names an operation (R29). -/
theorem step_take {s : State} {w : Word} {rest : List HostEvent} {i : Instr} (hb : s.busy = false)
    (hh : s.host = .offer w :: rest) (hd : decode s.cfg.profile w = .instr i) :
    step s = exec i ((s.withHost rest).withCmd w) := by
  rw [step_offer_idle hb hh, State.take, withHost_cfg, hd]

/-- The take of a word that names no operation (60_exceptions.md R121). -/
theorem step_refuse {s : State} {w : Word} {rest : List HostEvent} {c : RefuseCause} (hb : s.busy = false)
    (hh : s.host = .offer w :: rest) (hd : decode s.cfg.profile w = .refused c) :
    step s = .next (((s.withHost rest).withCmd w).raiseRefused c) := by
  rw [step_offer_idle hb hh, State.take, withHost_cfg, hd]

/-- A busy block whose host waits goes on with its operation (R16, R18, R30). -/
theorem step_busy {s : State} (hb : s.busy = true) (hw : s.hostWaits = true) : step s = s.resume := by
  unfold step State.advanceBlock
  unfold State.hostWaits at hw
  split at hw
  · simp [‹s.host = _›, hb]
  · simp [‹s.host = _›, hb]
  · simp [‹s.host = _›, hb]
  all_goals cases hw

/-- A busy block whose host passes goes on with its operation, the pass used up. -/
theorem step_pass_busy {s : State} {rest : List HostEvent} (hb : s.busy = true) (hh : s.host = .pass :: rest) :
    step s = (s.withHost rest).resume := by
  simp [step, State.advanceBlock, hh, hb]

theorem resume_of_decode {s : State} {i : Instr} (hd : decode s.cfg.profile s.cmd = .instr i) :
    s.resume = exec i s := by
  rw [State.resume, hd]

/-- A busy block whose host waits performs the operation that `CMD` names (R30). -/
theorem step_resume {s : State} {i : Instr} (hb : s.busy = true) (hw : s.hostWaits = true)
    (hd : decode s.cfg.profile s.cmd = .instr i) : step s = exec i s :=
  (step_busy hb hw).trans (resume_of_decode hd)

theorem hostWaits_of_offer {s : State} {w : Word} {rest : List HostEvent} (hh : s.host = .offer w :: rest) :
    s.hostWaits = true := by
  simp [State.hostWaits, hh]

/-- Settles O40: the four clauses are the branches of `step` for an offer, a waiting host, a pass, and a placed table
word, which `tableWord` leaves as it is. -/
theorem stepRunsTheDecodedOperation : Obligations.StepRunsTheDecodedOperation := by
  refine ⟨fun s w rest i hb hh hd => step_take hb hh hd, fun s i hb hw hd => step_resume hb hw hd,
    fun s rest i hb hh hd => ?_, fun s w i hd => ?_⟩
  · exact (step_pass_busy hb hh).trans (resume_of_decode hd)
  · have hword : tableWord 16 w.toNat = w := by
      rw [tableWord, Nat.mod_eq_of_lt w.isLt, BitVec.ofNat_toNat, BitVec.setWidth_eq]
    have hplaced : s.withFetchWord 16 w.toNat = s.offerNext w := by rw [State.withFetchWord, hword]
    rw [hplaced]
    exact step_take (s := s.offerNext w) rfl rfl hd

/-! ### The completed operation -/

/-- `RESV` is set by exactly the operations that return a value (R25). -/
theorem resultOf_isSome (i : Instr) (hb lb : Byte) : (resultOf i hb lb).isSome = returnsValue i := by
  cases i <;> rfl

/-- The completion writes `RES` and `RESV` where there is a result, ends the operation, and writes no more (R31). -/
theorem completed_eq (s : State) (r : Byte → Byte → Option Word) :
    s.completed r = { s with
      busy := false, seq := 0#3, res := (r s.hb s.lb).getD s.res, resv := s.resv || (r s.hb s.lb).isSome } := by
  unfold State.completed
  cases r s.hb s.lb <;> simp [State.writeResult, State.finish]

theorem completed_res (s : State) (r : Byte → Byte → Option Word) :
    (s.completed r).res = (r s.hb s.lb).getD s.res := by
  rw [completed_eq]

theorem completed_resv (s : State) (r : Byte → Byte → Option Word) :
    (s.completed r).resv = (s.resv || (r s.hb s.lb).isSome) := by
  rw [completed_eq]

end Sys2Proof.Machine
end

section
/-!
PROOFS. What an operation leaves unchanged (10_state.md R21, R25, R31; 41_config.md R107), whether it completes or is
left waiting; and what it does not look at: the host's events and the flags `ERR` and `ERRC` (R16, R27).
-/

namespace Sys2Proof.Machine

/-! ### The frame of an operation -/

/-- `t` agrees with `s` on the fields that no operation writes. -/
structure State.OperationFrame (s t : State) : Prop where
  cmd : t.cmd = s.cmd
  err : t.err = s.err
  errc : t.errc = s.errc
  cfg : t.cfg = s.cfg
  host : t.host = s.host
  reads : t.reads = s.reads

/-- The two ends of an operation: completed, its result written, or still busy. Each is a run from `s0`, which is `s` or
`s` at the start of the operation. -/
theorem exec_ends {i : Instr} {s t : State} (h : exec i s = .next t) :
    ∃ s0 ms bs u, (s0 = s ∧ s.busy = true ∨ s0 = s.start) ∧
      (t = (s0.reach ms bs u).completed (resultOf i) ∨ t = s0.reach ms bs u) := by
  obtain ⟨ms, s0, -, hstart, hend⟩ := exec_shape h
  have hs0 : s0 = s ∧ s.busy = true ∨ s0 = s.start := by
    rcases hstart with ⟨hb, hs, -⟩ | ⟨-, hs, -⟩
    · exact .inl ⟨hs, hb⟩
    · exact .inr hs
  rcases hend with ⟨bs, u, -, ht⟩ | ⟨pre, m, post, bs, t1, u, -, -, -, ht⟩
  · exact ⟨s0, ms, bs, u, hs0, .inl ht⟩
  · exact ⟨s0, pre, bs, u, hs0, .inr ht⟩

theorem exec_frame {i : Instr} {s t : State} (h : exec i s = .next t) : s.OperationFrame t := by
  obtain ⟨s0, ms, bs, u, hs0, ht⟩ := exec_ends h
  have hstart : s.OperationFrame s0 := by
    rcases hs0 with ⟨rfl, -⟩ | rfl <;> exact ⟨rfl, rfl, rfl, rfl, rfl, rfl⟩
  obtain ⟨hcmd, herr, herrc, hcfg, hhost, hreads⟩ := hstart
  rcases ht with rfl | rfl
  · rw [completed_eq]
    exact ⟨hcmd, herr, herrc, hcfg, hhost, hreads⟩
  · exact ⟨hcmd, herr, herrc, hcfg, hhost, hreads⟩

/-- `RES` and `RESV` after an operation: written from its result when it has completed, as before while it is busy. -/
theorem exec_result {i : Instr} {s t : State} (h : exec i s = .next t) :
    (t.busy = false ∧ ∃ hb lb, t.res = (resultOf i hb lb).getD s.res ∧ t.resv = (s.resv || returnsValue i)) ∨
      (t.busy = true ∧ t.res = s.res ∧ t.resv = s.resv) := by
  obtain ⟨s0, ms, bs, u, hs0, ht⟩ := exec_ends h
  have hstart : s0.busy = true ∧ s0.res = s.res ∧ s0.resv = s.resv := by
    rcases hs0 with ⟨rfl, hb⟩ | rfl
    · exact ⟨hb, rfl, rfl⟩
    · exact ⟨rfl, rfl, rfl⟩
  obtain ⟨hbusy, hres, hresv⟩ := hstart
  rcases ht with rfl | rfl
  · refine .inl ⟨completed_busy _ _, (s0.reach ms bs u).hb, (s0.reach ms bs u).lb, ?_, ?_⟩
    · rw [completed_res, ← hres]; rfl
    · rw [completed_resv, resultOf_isSome, ← hresv]; rfl
  · exact .inr ⟨hbusy, hres, hresv⟩

/-- Settles O36: the frame is `exec_frame`; `RES` and `RESV` follow the two ends in `exec_result`. -/
theorem operationsLeaveTheRestUnchanged : Obligations.OperationsLeaveTheRestUnchanged := by
  intro i s t h
  obtain ⟨hcmd, herr, herrc, hcfg, hhost, hreads⟩ := exec_frame h
  refine ⟨hcmd, herr, herrc, hcfg, hhost, hreads, ?_⟩
  rcases exec_result h with ⟨hidle, hb, lb, hres, hresv⟩ | ⟨-, hres, hresv⟩
  · refine ⟨fun hno => ?_, fun ht => ?_⟩
    · have hnone : returnsValue i = false := by simpa [hidle] using hno
      have hempty : resultOf i hb lb = none := by simpa [hnone] using resultOf_isSome i hb lb
      exact ⟨by rw [hres, hempty]; rfl, by rw [hresv, hnone, Bool.or_false]⟩
    · rw [hresv, Bool.or_eq_false_iff] at ht
      exact ht.1
  · exact ⟨fun _ => ⟨hres, hresv⟩, fun ht => hresv ▸ ht⟩

/-! ### What an operation does not look at -/

/-- An update of the state that operations neither see nor undo: it leaves what they read and commutes with what they
write. -/
structure UnseenByOperations (f : State → State) : Prop where
  cfg : ∀ s, (f s).cfg = s.cfg
  cmd : ∀ s, (f s).cmd = s.cmd
  busy : ∀ s, (f s).busy = s.busy
  seq : ∀ s, (f s).seq = s.seq
  transport : ∀ s, (f s).transport = s.transport
  start : ∀ s, (f s).start = f s.start
  reach : ∀ s ms bs t, (f s).reach ms bs t = f (s.reach ms bs t)
  completed : ∀ s r, (f s).completed r = f (s.completed r)

theorem unseen_withHost (h : List HostEvent) : UnseenByOperations (·.withHost h) where
  cfg _ := rfl
  cmd _ := rfl
  busy _ := rfl
  seq _ := rfl
  transport _ := rfl
  start _ := rfl
  reach _ _ _ _ := rfl
  completed s r := by rw [completed_eq, completed_eq]; rfl

/-- The two flags of a refusal (R27, R28), set to these values. -/
def State.withFlags (s : State) (e : Bool) (k : BitVec 2) : State := { s with err := e, errc := k }

theorem unseen_withFlags (e : Bool) (k : BitVec 2) : UnseenByOperations (·.withFlags e k) where
  cfg _ := rfl
  cmd _ := rfl
  busy _ := rfl
  seq _ := rfl
  transport _ := rfl
  start _ := rfl
  reach _ _ _ _ := rfl
  completed s r := by rw [completed_eq, completed_eq]; rfl

/-- An update of the next state, where there is one. -/
def onNext (f : State → State) : Host.Outcome State Fault Refusal → Host.Outcome State Fault Refusal
  | .next t => .next (f t)
  | .fault r => .fault r
  | .refused r => .refused r

theorem run_unseen {f : State → State} (hf : UnseenByOperations f) (result : Byte → Byte → Option Word)
    {ms : List MicroOp} (hne : ms ≠ []) (s : State) : State.run result ms (f s) = f (State.run result ms s) := by
  rcases run_cases result hne s with ⟨bs, t, hs, hr⟩ | ⟨pre, m, post, bs, t1, t2, rfl, hs, hw, hr⟩
  · rw [hr, run_served hne (by rwa [hf.transport]), hf.reach, hf.completed]
  · rw [hr, run_waits (by rwa [hf.transport]) hw, hf.reach]

theorem exec_unseen {f : State → State} (hf : UnseenByOperations f) (i : Instr) (s : State) :
    exec i (f s) = onNext f (exec i s) := by
  simp only [exec_eq_perform, State.perform, hf.busy, hf.seq, hf.cfg, hf.start]
  split
  · split
    · rfl
    · simp only [run_unseen hf _ (List.cons_ne_nil _ _), onNext]
  · simp only [run_unseen hf _ (script_ne_nil _ _), onNext]

theorem resume_unseen {f : State → State} (hf : UnseenByOperations f) (s : State) :
    (f s).resume = onNext f s.resume := by
  simp only [State.resume, hf.cfg, hf.cmd]
  split
  · exact exec_unseen hf _ s
  · rfl

/-- An idle block takes any offered word: the step runs or refuses it and answers a next state (R16, R29). -/
theorem step_offer_idle_next {s : State} {w : Word} {rest : List HostEvent} (hb : s.busy = false)
    (hh : s.host = .offer w :: rest) : ∃ t, step s = .next t ∧ t.host = rest ∧ t.cmd = w := by
  cases hd : decode s.cfg.profile w with
  | refused c => exact ⟨_, step_refuse hb hh hd, rfl, rfl⟩
  | instr i =>
    have he := exec_idle (i := i) (s := (s.withHost rest).withCmd w) hb
    exact ⟨_, (step_take hb hh hd).trans he, (exec_frame he).host, (exec_frame he).cmd⟩

/-- Settles O44: while the block is busy the step is `resume` with the offer or without it, and operations do not see
the host's events (`resume_unseen`). -/
theorem offerIsHeldWhileBusy : Obligations.OfferIsHeldWhileBusy := by
  refine ⟨fun s w rest hb hh => ?_, fun s w rest hb hh => step_offer_idle_next hb hh⟩
  have hheld : step s = s.resume := step_busy hb (hostWaits_of_offer hh)
  have hfree : step { s with host := [] } = ({ s with host := [] } : State).resume := step_busy hb rfl
  have hback : ({ s with host := [] } : State).withHost (.offer w :: rest) = s := by rw [← hh]; rfl
  have hresume := resume_unseen (unseen_withHost (.offer w :: rest)) { s with host := [] }
  rw [hheld, hfree, ← hback, hresume, hback]
  cases ({ s with host := [] } : State).resume <;> rfl

end Sys2Proof.Machine
end

section
/-!
PROOFS. The outputs of the block (10_state.md R18, R21) and the flags of a refusal (R27, R28), step by step.
-/

namespace Sys2Proof.Machine

/-- An idle block that neither takes a word nor meets `RESET` holds its outputs (R18). -/
theorem resultPort_stable_of_idle {s t : State} (hb : s.busy = false) (hreset : s.host.head? ≠ some .reset)
    (hoffer : ∀ w, s.host.head? ≠ some (.offer w)) (h : step s = .next t) : t.resultPort = s.resultPort := by
  cases step_shape h with
  | reset rest hh _ => exact absurd (by rw [hh]; rfl) hreset
  | read o rest _ e => rw [e]; rfl
  | seesIdle rest _ _ e => rw [e]; rfl
  | take w rest _ hh _ _ _ => exact absurd (by rw [hh]; rfl) (hoffer w)
  | refuse w rest _ hh _ _ _ => exact absurd (by rw [hh]; rfl) (hoffer w)
  | resume _ b _ _ _ => rw [hb] at b; cases b
  | resumePass _ _ b _ _ _ => rw [hb] at b; cases b
  | pass rest _ _ e => rw [e]; rfl
  | idle _ _ e => rw [e]

/-- A reading of `RES` without a result is the host's fault (R21). -/
theorem hostAtFault_of_read_without_result {s : State} (hv : s.resv = false) :
    (s.hostReads .res).hostAtFault = true := by
  simp [State.hostAtFault, State.hostReads, State.output, State.readRes, hv]

/-- Settles O46: a reading is one branch of `step`; the stability is `resultPort_stable_of_idle`. -/
theorem hostReadsLevelOutputs : Obligations.HostReadsLevelOutputs := by
  refine ⟨fun s o rest hh => ?_, fun s t => resultPort_stable_of_idle, fun s rest hh hv => ?_⟩
  · rw [step_read hh]
    cases o <;> rfl
  · exact ⟨_, step_read hh, hostAtFault_of_read_without_result hv⟩

/-! ### `ERR` and `ERRC` -/

/-- The first cause stays (R28). -/
theorem errcAfter_of_err {s : State} (he : s.err = true) (c : RefuseCause) : s.errcAfter c = s.errc := by
  rw [State.errcAfter, if_pos he]

theorem errcAfter_of_not_err {s : State} (he : s.err = false) (c : RefuseCause) : s.errcAfter c = c.code := by
  simp [State.errcAfter, he]

/-- Once `ERR` is 1 every step but `RESET` keeps both flags (R27, R28). -/
theorem step_keeps_flags {s t : State} (h : step s = .next t) (he : s.err = true)
    (hreset : s.host.head? ≠ some .reset) : t.err = true ∧ t.errc = s.errc := by
  have hframe {s' : State} {i : Instr} (hx : exec i s' = .next t) (herr : s'.err = s.err)
      (herrc : s'.errc = s.errc) : t.err = true ∧ t.errc = s.errc :=
    ⟨(exec_frame hx).err.trans (herr.trans he), (exec_frame hx).errc.trans herrc⟩
  cases step_shape h with
  | reset rest hh _ => exact absurd (by rw [hh]; rfl) hreset
  | read _ _ _ e => exact e ▸ ⟨he, rfl⟩
  | seesIdle _ _ _ e => exact e ▸ ⟨he, rfl⟩
  | take _ _ _ _ _ _ e => exact hframe e rfl rfl
  | refuse _ _ c _ _ _ e => exact e ▸ ⟨rfl, errcAfter_of_err he c⟩
  | resume _ _ _ _ e => exact hframe e rfl rfl
  | resumePass _ _ _ _ _ e => exact hframe e rfl rfl
  | pass _ _ _ e => exact e ▸ ⟨he, rfl⟩
  | idle _ _ e => rw [e]; exact ⟨he, rfl⟩

/-- Settles O48: the flags stay by `step_keeps_flags`, and operations do not see them (`exec_unseen`). -/
theorem refusalFlagsAreSticky : Obligations.RefusalFlagsAreSticky := by
  refine ⟨⟨rfl, rfl⟩, fun s t => step_keeps_flags, fun s w rest c hb hh hd => ?_, fun s t rest hh h => ?_,
    fun s w rest i e k hb hh hd => ?_⟩
  · exact ⟨_, step_refuse hb hh hd, rfl, fun he => errcAfter_of_not_err he c⟩
  · rw [step_reset hh] at h
    cases h
    exact ⟨rfl, rfl⟩
  · obtain ⟨t, ht, -⟩ := step_offer_idle_next hb hh
    refine ⟨t, ht, ?_⟩
    rw [step_take hb hh hd] at ht
    calc step (s.withFlags e k)
        = exec i (((s.withHost rest).withCmd w).withFlags e k) := step_take (s := s.withFlags e k) hb hh hd
      _ = onNext (·.withFlags e k) (.next t) := by rw [exec_unseen (unseen_withFlags e k), ht]

end Sys2Proof.Machine
end

section
/-!
PROOFS. The invariant (10_state.md R23, R24, R26 to R28; 20_memory.md R46): it holds at reset, and every step keeps it.
The work is in the run of an operation: from a busy block at entry `SEQ`, the entries performed move `SEQ` and the line
along the script (`SeqAt`), and the events of the run stay framed.
-/

namespace Sys2Proof.Machine

/-! ### At reset -/

/-- Settles O51: each value is a field of `State.reset`; the twelve default addresses are compared by `decide`. -/
theorem resetStateValues : Obligations.ResetStateValues :=
  ⟨rfl, rfl, rfl, rfl, rfl, rfl, rfl, rfl, rfl, rfl, by decide⟩

/-- `RESET` ends in a state that meets the invariant: the event of a released line closes the framing (R26, R136). -/
theorem inv_resetBlock {s : State} (h : s.Inv) : s.resetBlock.Inv where
  idle _ := ⟨rfl, rfl⟩
  busy hb := by cases hb
  framed := by
    rw [resetBlock_trace, resetBlock_sel]
    cases hsel : s.sel with
    | false => simpa [hsel] using h.framed
    | true =>
      have hline : lineAfter false (s.trace.map Event.call) = some true := by rw [← hsel]; exact h.framed
      rw [if_pos rfl, traceLine, List.map_append, lineAfter_append, hline]
      rfl
  cause := by simp
  memory := h.memory

/-- Settles O55: the reset state is idle with the line released and has no event. -/
theorem invariantAtReset : Obligations.InvariantAtReset where
  idle _ := ⟨rfl, rfl⟩
  busy hb := by cases hb
  framed := rfl
  cause := by decide
  memory := rfl

/-! ### Updates outside the block -/

/-- The invariant does not speak of the host. -/
theorem inv_withHost {s : State} (h : s.Inv) (rest : List HostEvent) : (s.withHost rest).Inv :=
  ⟨h.idle, h.busy, h.framed, h.cause, h.memory⟩

theorem inv_hostReads {s : State} (h : s.Inv) (o : Output) : (s.hostReads o).Inv :=
  ⟨h.idle, h.busy, h.framed, h.cause, h.memory⟩

/-- `CMD` of an idle block names nothing that the invariant speaks of (R22). -/
theorem inv_withCmd {s : State} (h : s.Inv) (hb : s.busy = false) (w : Word) : (s.withCmd w).Inv where
  idle := h.idle
  busy hbusy := by rw [withCmd_busy, hb] at hbusy; cases hbusy
  framed := h.framed
  cause := h.cause
  memory := h.memory

/-- A refusal sets `ERR` and leaves a cause that is not zero (R27, R28). -/
theorem inv_raiseRefused {s : State} (h : s.Inv) (hb : s.busy = false) (c : RefuseCause) : (s.raiseRefused c).Inv where
  idle := h.idle
  busy hbusy := by
    have : s.busy = true := hbusy
    rw [hb] at this
    cases this
  framed := h.framed
  cause := by
    have hne : s.errcAfter c ≠ 0#2 := by
      cases he : s.err with
      | true => rw [errcAfter_of_err he]; exact h.cause.1 he
      | false => rw [errcAfter_of_not_err he]; cases c <;> decide
    exact ⟨fun _ => hne, fun _ => rfl⟩
  memory := h.memory

/-! ### Along a script -/

/-- The three bits of `SEQ` hold every place of a script, so it counts the entries performed (R24). -/
theorem reach_seq_toNat {i : Instr} {s : State} {pre : List MicroOp}
    (h : s.seq.toNat + pre.length < (script s.cfg i).length) (bs : List Byte) (t : Transport) :
    (s.reach pre bs t).seq.toNat = s.seq.toNat + pre.length := by
  have hle := script_length_le s.cfg i
  show (s.seq + BitVec.ofNat 3 pre.length).toNat = s.seq.toNat + pre.length
  rw [BitVec.toNat_add, BitVec.toNat_ofNat]
  omega

/-- The block stands in the script of `i` with the entries `todo` before it, and the line is as the entries performed
leave it (R24, R26). -/
def SeqAt (i : Instr) (s : State) (todo : List MicroOp) : Prop :=
  ∃ done, script s.cfg i = done ++ todo ∧ s.seq.toNat = done.length ∧
    lineAfter false (done.map MicroOp.call) = some s.sel

/-- `busyOk` in terms of `SeqAt`: there is an entry to perform. -/
theorem seqAt_of_busyOk {i : Instr} {s : State} (h : s.busyOk) (hb : s.busy = true)
    (hd : decode s.cfg.profile s.cmd = .instr i) : SeqAt i s ((script s.cfg i).drop s.seq.toNat) := by
  obtain ⟨j, hj, hlt, hline⟩ := h hb
  obtain rfl : i = j := by rw [hd] at hj; exact Decoded.instr.inj hj
  exact ⟨_, (List.take_append_drop _ _).symm, by rw [List.length_take]; omega, by rw [List.map_take]; exact hline⟩

theorem busyOk_of_seqAt {i : Instr} {s : State} {todo : List MicroOp} (h : SeqAt i s todo) (hne : todo ≠ [])
    (hd : decode s.cfg.profile s.cmd = .instr i) : s.busyOk := by
  intro _
  obtain ⟨done, hs, hseq, hline⟩ := h
  refine ⟨i, hd, ?_, ?_⟩
  · rw [hs, List.length_append, hseq]
    exact Nat.lt_add_of_pos_right (List.length_pos_iff.2 hne)
  · rw [scriptCalls, hs, hseq, List.map_append, List.take_left' (List.length_map _), hline]

/-- At the take, the whole script is before the block (R29). -/
theorem seqAt_start {i : Instr} {s : State} (hsel : s.sel = false) : SeqAt i s.start (script s.cfg i) :=
  ⟨[], rfl, rfl, by rw [start_sel, hsel]; rfl⟩

/-- The entries of a script leave a line at each place: the framing of a script never breaks (R46). -/
theorem lineAfter_of_seqAt {i : Instr} {s : State} {pre post : List MicroOp} (h : SeqAt i s (pre ++ post)) :
    ∃ b, lineAfter s.sel (pre.map MicroOp.call) = some b ∧ lineAfter b (post.map MicroOp.call) = some false := by
  obtain ⟨done, hs, -, hline⟩ := h
  have hall := script_line s.cfg i
  rw [scriptCalls, hs, List.map_append, lineAfter_append, hline, Option.bind_some, List.map_append,
    lineAfter_append] at hall
  exact Option.bind_eq_some_iff.1 hall

/-- The line after entries whose calls returned. -/
theorem reach_sel {s : State} {ms : List MicroOp} {bs : List Byte} {t : Transport} {b : Bool}
    (hl : bs.length = ms.length) (h : lineAfter s.sel (ms.map MicroOp.call) = some b) : (s.reach ms bs t).sel = b :=
  capture_line ms bs (s.sel, s.hb, s.lb) b hl h

/-- The events of entries whose calls returned carry the framing of the run on. -/
theorem reach_framed {s : State} {ms : List MicroOp} {bs : List Byte} {t : Transport} {b : Bool}
    (hl : bs.length = ms.length) (hf : traceLine s.trace = some s.sel)
    (h : lineAfter s.sel (ms.map MicroOp.call) = some b) :
    traceLine (s.reach ms bs t).trace = some (s.reach ms bs t).sel := by
  have hf' : lineAfter false (s.trace.map Event.call) = some s.sel := hf
  rw [reach_sel hl h]
  show lineAfter false ((s.trace ++ eventsOf (ms.map MicroOp.call) bs).map Event.call) = some b
  rw [List.map_append, eventsOf_call _ _ (by simpa using hl), lineAfter_append, hf', Option.bind_some, h]

/-- `SEQ` and the line after the first entries before the block. -/
theorem seqAt_reach {i : Instr} {s : State} {pre post : List MicroOp} {bs : List Byte} {t : Transport}
    (h : SeqAt i s (pre ++ post)) (hne : post ≠ []) (hl : bs.length = pre.length) :
    SeqAt i (s.reach pre bs t) post := by
  obtain ⟨b, hpre, -⟩ := lineAfter_of_seqAt h
  obtain ⟨done, hs, hseq, hline⟩ := h
  refine ⟨done ++ pre, by rw [List.append_assoc]; exact hs, ?_, ?_⟩
  · have hpos := List.length_pos_iff.2 hne
    rw [reach_seq_toNat (i := i) _ bs t, hseq, List.length_append]
    rw [hs, hseq, List.length_append, List.length_append]
    omega
  · rw [List.map_append, lineAfter_append, hline, Option.bind_some, hpre, reach_sel hl hpre]

theorem serve_script_length {ms : List MicroOp} {t t' : Transport} {bs : List Byte}
    (h : t.serve (ms.map MicroOp.call) = some (bs, t')) : bs.length = ms.length := by
  simpa using serve_length h

theorem call_wf {t t' : Transport} {c : Call} {o : Option Byte} (h : t.wf = true) (hc : t.call c = (o, t')) :
    t'.wf = true :=
  call_pair_eq hc ▸ transport_call_wf h c

/-! ### One operation, one step -/

/-- The operation that `CMD` names keeps the invariant, from its take and from any later entry. -/
theorem exec_keeps_inv {i : Instr} {s t : State} (hinv : s.Inv) (hd : decode s.cfg.profile s.cmd = .instr i)
    (h : exec i s = .next t) : t.Inv := by
  obtain ⟨ms, s0, -, hstart, hend⟩ := exec_shape h
  obtain ⟨hat, hbusy, hd0, hframed, hcause, hmem⟩ : SeqAt i s0 ms ∧ s0.busy = true ∧
      decode s0.cfg.profile s0.cmd = .instr i ∧ traceLine s0.trace = some s0.sel ∧
      (s0.err = true ↔ s0.errc ≠ 0#2) ∧ s0.transport.wf = true := by
    rcases hstart with ⟨hb, rfl, rfl⟩ | ⟨hb, rfl, rfl⟩
    · exact ⟨seqAt_of_busyOk hinv.busy hb hd, hb, hd, hinv.framed, hinv.cause, hinv.memory⟩
    · exact ⟨seqAt_start (hinv.idle hb).2, rfl, hd, hinv.framed, hinv.cause, hinv.memory⟩
  rcases hend with ⟨bs, u, hserve, rfl⟩ | ⟨pre, m, post, bs, t1, u, rfl, hserve, hwait, rfl⟩
  · have hl := serve_script_length hserve
    have hline : lineAfter s0.sel (ms.map MicroOp.call) = some false := by
      obtain ⟨b, hb, hrest⟩ := lineAfter_of_seqAt (pre := ms) (post := []) (by rwa [List.append_nil])
      exact hb.trans hrest
    rw [completed_eq]
    exact
      { idle := fun _ => ⟨rfl, reach_sel (t := u) hl hline⟩
        busy := fun hb => by cases hb
        framed := reach_framed (t := u) hl hframed hline
        cause := hcause
        memory := serve_wf _ _ _ hmem hserve }
  · have hl := serve_script_length hserve
    obtain ⟨b, hline, -⟩ := lineAfter_of_seqAt hat
    exact
      { idle := fun hb => by rw [show s0.busy = false from hb] at hbusy; cases hbusy
        busy := busyOk_of_seqAt (seqAt_reach hat (List.cons_ne_nil m post) hl) (List.cons_ne_nil m post) hd0
        framed := reach_framed hl hframed hline
        cause := hcause
        memory := call_wf (serve_wf _ _ _ hmem hserve) hwait }

/-- Settles O56: one case for each way a step answers a next state; an operation keeps the invariant by
`exec_keeps_inv`. -/
theorem stepKeepsInvariant : Obligations.StepKeepsInvariant := by
  intro s t hinv h
  have hheard (rest : List HostEvent) : (s.withHost rest).Inv := inv_withHost hinv rest
  cases step_shape h with
  | reset rest _ e => exact e ▸ inv_resetBlock (hheard rest)
  | read o rest _ e => exact e ▸ inv_hostReads (hheard rest) o
  | seesIdle rest _ _ e => exact e ▸ inv_hostReads (hheard rest) .busy
  | take w rest _ _ b d e => exact exec_keeps_inv (inv_withCmd (hheard rest) b w) d e
  | refuse w rest c _ b _ e => exact e ▸ inv_raiseRefused (inv_withCmd (hheard rest) b w) b c
  | resume _ _ _ d e => exact exec_keeps_inv hinv d e
  | resumePass _ rest _ _ d e => exact exec_keeps_inv (hheard rest) d e
  | pass rest _ _ e => exact e ▸ hheard rest
  | idle _ _ e => exact e ▸ hinv

end Sys2Proof.Machine
end

section
/-!
PROOFS. One micro-step of a busy block (10_state.md R30), and the last one of an operation (R31).
-/

namespace Sys2Proof.Machine

/-- A busy block whose host waits runs the entries from `SEQ` on. -/
theorem step_runs_todo {i : Instr} {s : State} {todo : List MicroOp} (hb : s.busy = true) (hw : s.hostWaits = true)
    (hd : decode s.cfg.profile s.cmd = .instr i) (htodo : (script s.cfg i).drop s.seq.toNat = todo)
    (hne : todo ≠ []) : step s = .next (State.run (resultOf i) todo s) := by
  have hlt : s.seq.toNat < (script s.cfg i).length := by
    rw [← htodo, ne_eq, List.drop_eq_nil_iff] at hne
    omega
  rw [step_resume hb hw hd, exec_busy hb hlt, htodo]

/-- The next call has not returned: only the transport has made its attempt (R30, 70_reset_and_hazards.md R149). -/
theorem run_pending {result : Byte → Byte → Option Word} {m : MicroOp} {post : List MicroOp} {s : State}
    {rest : List Answer} {d : Nat} (ht : s.transport = .oracle (.pending :: rest) d) :
    State.run result (m :: post) s = s.withTransport (.oracle rest d) := by
  rw [← reach_nil]
  exact run_waits (pre := []) (t := s.transport) rfl (by rw [ht]; rfl)

/-- One call returns and the next has not: one entry is performed. -/
theorem run_one {result : Byte → Byte → Option Word} {m m' : MicroOp} {post : List MicroOp} {s : State} {b : Byte}
    {rest : List Answer} {d : Nat} (ht : s.transport = .oracle (.returned b :: .pending :: rest) d) :
    State.run result (m :: m' :: post) s = s.reach [m] [b] (.oracle rest d) :=
  run_waits (pre := [m]) (t := .oracle (.pending :: rest) d) (by rw [ht]; rfl) rfl

/-- The effect of one performed entry on the block (R30). -/
theorem reach_single (s : State) (m : MicroOp) (b : Byte) (t : Transport) :
    s.reach [m] [b] t = { s with
      seq := s.seq + 1#3
      transport := t
      sel := if m = .sel then true else if m = .desel then false else s.sel
      hb := (match m with
        | .captureHigh _ => b
        | _ => s.hb)
      lb := (match m with
        | .captureLow _ => b
        | _ => s.lb)
      trace := s.trace ++ [m.call.event b] } := by
  cases m <;> rfl

/-- Settles O42: the answers let the run perform no entry (`run_pending`) or exactly one (`run_one`). -/
theorem microStepPerformsItsEntry : Obligations.MicroStepPerformsItsEntry := by
  intro i s rest d m hb hw hd hm
  obtain ⟨hlt, rfl⟩ := List.getElem?_eq_some_iff.1 hm
  have htodo := List.drop_eq_getElem_cons hlt
  refine ⟨fun ht => ?_, fun b ht hnext => ?_⟩
  · rw [step_runs_todo hb hw hd htodo (List.cons_ne_nil _ _), run_pending ht]
    rfl
  · rw [List.drop_eq_getElem_cons hnext] at htodo
    rw [step_runs_todo hb hw hd htodo (List.cons_ne_nil _ _), run_one ht]
    exact congrArg Host.Outcome.next (reach_single s _ b _)

/-- Every script ends with the release of the line (20_memory.md R46). -/
theorem script_getLast (c : Config) (i : Instr) : (script c i).getLast (script_ne_nil c i) = .desel := by
  cases i <;> rfl

theorem script_drop_last {c : Config} {i : Instr} {n : Nat} (h : n + 1 = (script c i).length) :
    (script c i).drop n = [.desel] := by
  obtain rfl : n = (script c i).length - 1 := by omega
  rw [List.drop_length_sub_one (script_ne_nil c i), script_getLast]

/-- Settles O43: the last entry is `DESEL`; once it has returned the operation is `completed`. -/
theorem lastEntryCompletes : Obligations.LastEntryCompletes := by
  intro i s b rest d hb hw hd hlast ht
  have hserve : s.transport.serve ([MicroOp.desel].map MicroOp.call) = some ([b], .oracle rest d) := by rw [ht]; rfl
  rw [step_runs_todo hb hw hd (script_drop_last hlast) (List.cons_ne_nil _ _),
    run_served (List.cons_ne_nil _ _) hserve, completed_eq, resultOf_isSome]
  rfl

end Sys2Proof.Machine
end

section
/-!
PROOFS. Waiting (10_state.md R29 to R31; 70_reset_and_hazards.md R149): a transport that lets the block wait any
number of times before a call returns changes nothing but time. A block in the middle of an operation, with the answers
to come, is described by `Awaits`; each "not yet" costs one step that leads to such a state again, and the last step
completes.
-/

namespace Sys2Proof.Machine

/-! ### Lists of answers -/

/-- Answers without a wait are the bytes they return. -/
theorem answers_of_count_zero {as : List Answer} (h : as.count .pending = 0) :
    as = (as.filterMap answerByte).map .returned := by
  induction as with
  | nil => rfl
  | cons a as ih =>
    cases a with
    | pending => simp at h
    | returned b => exact congrArg (Answer.returned b :: ·) (ih (by simpa using h))

/-- Answers with a wait, cut at the first one. -/
theorem answers_split {as : List Answer} {n : Nat} (h : as.count .pending = n + 1) :
    ∃ (bs : List Byte) (as' : List Answer), as = bs.map .returned ++ .pending :: as' ∧ as'.count .pending = n := by
  induction as with
  | nil => simp at h
  | cons a as ih =>
    cases a with
    | pending => exact ⟨[], as, rfl, by simpa using h⟩
    | returned b =>
      obtain ⟨bs, as', rfl, hn⟩ := ih (by simpa using h)
      exact ⟨b :: bs, as', rfl, hn⟩

theorem filterMap_answers_split (bs : List Byte) (as : List Answer) :
    (bs.map Answer.returned ++ .pending :: as).filterMap answerByte = bs ++ as.filterMap answerByte := by
  induction bs with
  | nil => rfl
  | cons b bs ih => exact congrArg (b :: ·) ih

/-- Behind a wait that is not the last answer there is a byte. -/
theorem bytes_behind_wait {xs as : List Answer} (h : (xs ++ .pending :: as).getLast? ≠ some .pending) :
    as.getLast? ≠ some .pending ∧ as.filterMap answerByte ≠ [] := by
  rw [List.getLast?_append_cons, List.getLast?_cons] at h
  cases hlast : as.getLast? with
  | none => simp [hlast] at h
  | some a =>
    cases a with
    | pending => simp [hlast] at h
    | returned b =>
      have hb : b ∈ as.filterMap answerByte :=
        List.mem_filterMap.2 ⟨_, List.mem_of_getLast? hlast, rfl⟩
      exact ⟨by simp, List.ne_nil_of_mem hb⟩

/-! ### A block in the middle of an operation -/

/-- The block is busy with `i` and its host waits; the entries `todo` are left, and the transport has lined up the
answers `as` to their calls, the last of them a byte, and then `tail`. -/
structure Awaits (i : Instr) (tail : List Answer) (d : Nat) (v : State) (todo : List MicroOp) (as : List Answer) :
    Prop where
  busy : v.busy = true
  waits : v.hostWaits = true
  decoded : decode v.cfg.profile v.cmd = .instr i
  script_drop : (script v.cfg i).drop v.seq.toNat = todo
  todo_ne : todo ≠ []
  transport : v.transport = .oracle (as ++ tail) d
  bytes : (as.filterMap answerByte).length = todo.length
  last : as.getLast? ≠ some .pending

/-- The entries left after some of them are performed. -/
theorem reach_script_drop {i : Instr} {v : State} {pre post : List MicroOp}
    (h : (script v.cfg i).drop v.seq.toNat = pre ++ post) (hne : post ≠ []) (bs : List Byte) (t : Transport) :
    (script (v.reach pre bs t).cfg i).drop (v.reach pre bs t).seq.toNat = post := by
  have hlt : v.seq.toNat + pre.length < (script v.cfg i).length := by
    have hlen := congrArg List.length h
    have hpos := List.length_pos_iff.2 hne
    rw [List.length_drop, List.length_append] at hlen
    omega
  rw [reach_seq_toNat hlt]
  show (script v.cfg i).drop (v.seq.toNat + pre.length) = post
  rw [← List.drop_drop, h, List.drop_left]

/-- Without a wait ahead, the next step completes the operation. -/
theorem Awaits.step_completes {i : Instr} {tail : List Answer} {d : Nat} {v : State} {todo : List MicroOp}
    {as : List Answer} (h : Awaits i tail d v todo as) (hn : as.count .pending = 0) :
    step v = .next ((v.reach todo (as.filterMap answerByte) (.oracle tail d)).completed (resultOf i)) := by
  have hserve : v.transport.serve (todo.map MicroOp.call) = some (as.filterMap answerByte, .oracle tail d) := by
    have := serve_oracle (todo.map MicroOp.call) (as.filterMap answerByte) tail d (by simpa using h.bytes)
    rwa [← answers_of_count_zero hn, ← h.transport] at this
  rw [step_runs_todo h.busy h.waits h.decoded h.script_drop h.todo_ne, run_served h.todo_ne hserve]

/-- With a wait ahead, the next step performs the entries before it and leaves a block that awaits the rest. -/
theorem Awaits.step_waits {i : Instr} {tail : List Answer} {d : Nat} {v : State} {todo : List MicroOp}
    {as : List Answer} {n : Nat} (h : Awaits i tail d v todo as) (hn : as.count .pending = n + 1) :
    ∃ pre post bs as', todo = pre ++ post ∧ bs.length = pre.length ∧
      as.filterMap answerByte = bs ++ as'.filterMap answerByte ∧ as'.count .pending = n ∧
      step v = .next (v.reach pre bs (.oracle (as' ++ tail) d)) ∧
      Awaits i tail d (v.reach pre bs (.oracle (as' ++ tail) d)) post as' := by
  obtain ⟨hbusy, hwaits, hdec, hdrop, hne, htransport, hbytes, hlast⟩ := h
  obtain ⟨bs, as', rfl, hn'⟩ := answers_split hn
  obtain ⟨hlast', hbytes'⟩ := bytes_behind_wait hlast
  rw [filterMap_answers_split, List.length_append] at hbytes
  have hpos := List.length_pos_iff.2 hbytes'
  obtain ⟨pre, post, rfl, hpre⟩ : ∃ pre post, todo = pre ++ post ∧ pre.length = bs.length :=
    ⟨_, _, (List.take_append_drop bs.length todo).symm, by rw [List.length_take]; omega⟩
  rw [List.length_append, hpre, Nat.add_left_cancel_iff] at hbytes
  have hpost : post ≠ [] := by
    rintro rfl
    rw [List.length_nil] at hbytes
    omega
  obtain ⟨m, post', rfl⟩ := List.exists_cons_of_ne_nil hpost
  have hserve : v.transport.serve (pre.map MicroOp.call) = some (bs, .oracle (.pending :: (as' ++ tail)) d) := by
    rw [htransport, List.append_assoc]
    exact serve_oracle _ bs _ d (by simpa using hpre.symm)
  refine ⟨pre, m :: post', bs, as', rfl, hpre.symm, filterMap_answers_split bs as', hn', ?_, ?_⟩
  · rw [step_runs_todo hbusy hwaits hdec hdrop hne, run_waits hserve rfl]
  · exact ⟨hbusy, hwaits, hdec, reach_script_drop hdrop hpost bs _, hpost, rfl, hbytes, hlast'⟩

/-! ### The whole operation -/

/-- One step more than there are waits, and the operation is the atomic one (R31, R149). -/
theorem Awaits.run_completes {i : Instr} {tail : List Answer} {d n : Nat} {v : State} {todo : List MicroOp}
    {as : List Answer} (h : Awaits i tail d v todo as) (hn : as.count .pending = n) :
    Sys2Proof.core.run (n + 1) v =
      .next ((v.reach todo (as.filterMap answerByte) (.oracle tail d)).completed (resultOf i)) := by
  induction n generalizing v todo as with
  | zero => exact core_run_succ 0 (h.step_completes hn)
  | succ n ih =>
    obtain ⟨pre, post, bs, as', rfl, hl, hbytes, hn', hstep, hrest⟩ := h.step_waits hn
    rw [core_run_succ (n + 1) hstep, ih hrest hn', reach_append _ _ _ _ _ _ _ hl, hbytes]

/-- While there are waits left the block stays busy, and the host has neither gone on nor read (R18). -/
theorem Awaits.run_busy {i : Instr} {tail : List Answer} {d k : Nat} {v : State} {todo : List MicroOp}
    {as : List Answer} (h : Awaits i tail d v todo as) (hk : k ≤ as.count .pending) :
    ∃ t, Sys2Proof.core.run k v = .next t ∧ t.busy = true ∧ t.host = v.host ∧ t.reads = v.reads := by
  induction k generalizing v todo as with
  | zero => exact ⟨v, rfl, h.busy, rfl, rfl⟩
  | succ k ih =>
    obtain ⟨n, hn⟩ := Nat.exists_eq_add_of_le' (Nat.lt_of_lt_of_le k.succ_pos hk)
    obtain ⟨pre, post, bs, as', -, -, -, hn', hstep, hrest⟩ := h.step_waits hn
    obtain ⟨t, hrun, hbusy, hhost, hreads⟩ := ih hrest (by omega)
    exact ⟨t, (core_run_succ k hstep).trans hrun, hbusy, hhost, hreads⟩

/-- The state right after the take of `w`, at entry 0 of its script (R29). -/
def State.taken (s : State) (w : Word) (rest : List HostEvent) : State := ((s.withHost rest).withCmd w).start

/-- The take costs no step: it goes on with the entries at once. -/
theorem step_eq_step_taken {s : State} {w : Word} {rest : List HostEvent} {i : Instr} (hb : s.busy = false)
    (hh : s.host = .offer w :: rest) (hd : decode s.cfg.profile w = .instr i) (hw : (s.taken w rest).hostWaits = true) :
    step s = step (s.taken w rest) := by
  have hrun : step (s.taken w rest) = .next (State.run (resultOf i) (script s.cfg i) (s.taken w rest)) :=
    step_runs_todo rfl hw hd rfl (script_ne_nil _ _)
  rw [step_take hb hh hd, hrun, exec_idle (s := (s.withHost rest).withCmd w) hb]
  rfl

theorem host_run_congr (M : Host.Core) {s u : M.State} (n : Nat) (h : M.step s = M.step u) :
    M.run (n + 1) s = M.run (n + 1) u := by
  simp only [Host.Core.run, h]

theorem core_run_congr {s u : State} (n : Nat) (h : step s = step u) :
    Sys2Proof.core.run (n + 1) s = Sys2Proof.core.run (n + 1) u :=
  host_run_congr Sys2Proof.core n h

/-- `m` steps and then `n` more. -/
theorem host_run_add (M : Host.Core) {s t : M.State} {m : Nat} (n : Nat) (h : M.run m s = .next t) :
    M.run (m + n) s = M.run n t := by
  induction m generalizing s with
  | zero => cases h; rw [Nat.zero_add]
  | succ m ih =>
    rw [Nat.add_right_comm]
    cases hs : M.step s with
    | next s' =>
      rw [host_run_succ M m hs] at h
      rw [host_run_succ M (m + n) hs, ih h]
    | fault r => simp [Host.Core.run, hs] at h
    | refused r => simp [Host.Core.run, hs] at h

theorem core_run_add {s t : State} {m : Nat} (n : Nat) (h : Sys2Proof.core.run m s = .next t) :
    Sys2Proof.core.run (m + n) s = Sys2Proof.core.run n t :=
  host_run_add Sys2Proof.core n h

theorem awaits_taken {i : Instr} {s : State} {w : Word} {rest : List HostEvent} {as tail : List Answer} {d : Nat}
    (hd : decode s.cfg.profile w = .instr i) (hw : (s.taken w rest).hostWaits = true)
    (ht : s.transport = .oracle (as ++ tail) d) (hbytes : (as.filterMap answerByte).length = (script s.cfg i).length)
    (hlast : as.getLast? ≠ some .pending) : Awaits i tail d (s.taken w rest) (script s.cfg i) as :=
  ⟨rfl, hw, hd, rfl, script_ne_nil _ _, ht, hbytes, hlast⟩

/-! ### The result of an operation on its bytes (10_state.md R21) -/

/-- The sample of the discrete protocol is the high byte followed by the low one (40_codec_functions.md R99). -/
theorem decDiscrete_eq_append (high low : Byte) : decDiscrete high low = (high ++ low : BitVec (8 + 8)) := by
  apply BitVec.eq_of_getLsbD_eq
  intro n hn
  simp only [decDiscrete, BitVec.getLsbD_or, BitVec.getLsbD_shiftLeft, BitVec.getLsbD_signExtend,
    BitVec.getLsbD_setWidth, BitVec.getLsbD_append]
  by_cases h8 : n < 8
  · simp [h8, hn]
  · simp [h8, hn, show n - 8 < 8 by omega, show n - 8 < 16 by omega, BitVec.getLsbD_of_ge low n (by omega)]

/-- The sample of the burst protocol is the same word (40_codec_functions.md R100). -/
theorem decBurst_eq_append (low high : Byte) : decBurst low high = (high ++ low : BitVec (8 + 8)) := by
  apply BitVec.eq_of_getLsbD_eq
  intro n hn
  simp only [decBurst, BitVec.getLsbD_or, BitVec.getLsbD_shiftLeft, BitVec.getLsbD_setWidth, BitVec.getLsbD_append]
  by_cases h8 : n < 8
  · simp [h8, hn]
  · simp [h8, hn, show n - 8 < 16 by omega, BitVec.getLsbD_of_ge low n (by omega)]

/-- After the entries of a script the line is released (R26) and the capture registers hold what the operation returns
for the bytes of its calls (R21, R31). -/
theorem capture_script {c : Config} {i : Instr} {bs : List Byte} (h : bs.length = (script c i).length)
    (r : Bool × Byte × Byte) :
    (capture (script c i) bs r).1 = false ∧
      resultOf i (capture (script c i) bs r).2.1 (capture (script c i) bs r).2.2 = resultOfBytes i bs := by
  cases i with
  | rdd axis =>
    match bs, h with
    | [_, _, high, _, _, _, low, _], _ => exact ⟨rfl, congrArg some (decDiscrete_eq_append high low)⟩
  | rdb axis =>
    match bs, h with
    | [_, _, low, high, _], _ => exact ⟨rfl, congrArg some (decBurst_eq_append low high)⟩
  | _ =>
    match bs, h with
    | [_, _, _, _], _ => exact ⟨rfl, rfl⟩

/-- The result of an operation, once completed, for the bytes of its calls. -/
theorem completed_script {i : Instr} {v : State} {bs : List Byte} (h : bs.length = (script v.cfg i).length)
    (t : Transport) :
    (v.reach (script v.cfg i) bs t).completed (resultOf i) = { v.reach (script v.cfg i) bs t with
      busy := false, seq := 0#3, sel := false, res := (resultOfBytes i bs).getD v.res
      resv := v.resv || (resultOfBytes i bs).isSome } := by
  obtain ⟨hsel, hresult⟩ := capture_script h (v.sel, v.hb, v.lb)
  have hsel' : (v.reach (script v.cfg i) bs t).sel = false := hsel
  have hresult' : resultOf i (v.reach (script v.cfg i) bs t).hb (v.reach (script v.cfg i) bs t).lb =
      resultOfBytes i bs := hresult
  rw [completed_eq, hresult', hsel']
  rfl

/-- The whole operation from its take: complete after one step more than there are waits, with the atomic result. -/
theorem run_taken_completes {i : Instr} {s : State} {w : Word} {rest : List HostEvent} {as tail : List Answer} {d : Nat}
    (hb : s.busy = false) (hh : s.host = .offer w :: rest) (hd : decode s.cfg.profile w = .instr i)
    (hw : (s.taken w rest).hostWaits = true) (ht : s.transport = .oracle (as ++ tail) d)
    (hbytes : (as.filterMap answerByte).length = (script s.cfg i).length) (hlast : as.getLast? ≠ some .pending) :
    Sys2Proof.core.run (as.count .pending + 1) s =
      .next { (s.taken w rest).reach (script s.cfg i) (as.filterMap answerByte) (.oracle tail d) with
        busy := false, seq := 0#3, sel := false, res := (resultOfBytes i (as.filterMap answerByte)).getD s.res
        resv := s.resv || (resultOfBytes i (as.filterMap answerByte)).isSome } := by
  rw [core_run_congr _ (step_eq_step_taken hb hh hd hw),
    (awaits_taken hd hw ht hbytes hlast).run_completes rfl]
  exact congrArg Host.Outcome.next (completed_script (v := s.taken w rest) hbytes (.oracle tail d))

/-- Settles O53: the state that `run_taken_completes` gives, field by field. -/
theorem waitingChangesNothingButTime : Obligations.WaitingChangesNothingButTime := by
  intro i s w as tail d hb hh hd ht hbytes hlast
  refine ⟨_, run_taken_completes hb hh hd rfl ht hbytes hlast, rfl, rfl, rfl, rfl, rfl, rfl, rfl, ?_⟩
  cases resultOfBytes i (as.filterMap answerByte) with
  | some r => exact ⟨rfl, Bool.or_true _⟩
  | none => exact ⟨rfl, Bool.or_false _⟩

/-- An idle block whose host watches `BUSY` and then reads `RES` shows both in two steps (R18, R21). -/
theorem run_two_of_watching {t : State} {r : Word} (hb : t.busy = false) (hh : t.host = [.awaitIdle, .read .res])
    (hv : t.resv = true) (hr : t.res = r) :
    ∃ u, Sys2Proof.core.run 2 t = .next u ∧ u.busy = false ∧ u.host = [] ∧
      u.reads = t.reads ++ [.busy false, .res (some r)] := by
  have hsees := step_awaitIdle hb hh
  have hreads := step_read (s := (t.withHost [.read .res]).hostReads .busy) rfl
  refine ⟨_, (core_run_succ 1 hsees).trans (core_run_succ 0 hreads), hb, rfl, ?_⟩
  simp [State.hostReads, State.output, State.readRes, hb, hv, hr]

/-- Settles O41: while there are waits left the host has seen nothing (`Awaits.run_busy`); after the completion
(`run_taken_completes`) it sees `BUSY = 0` in one step and reads `RES` in the next. -/
theorem hostSeesTheOperationReturn : Obligations.HostSeesTheOperationReturn := by
  intro i s w as tail d r hb hh hd ht hbytes hlast hr
  refine ⟨fun k hk hkn => ?_, ?_⟩
  · obtain ⟨k, rfl⟩ := Nat.exists_eq_add_of_le' hk
    rw [core_run_congr k (step_eq_step_taken hb hh hd rfl)]
    exact (awaits_taken hd rfl ht hbytes hlast).run_busy hkn
  · have hdone := run_taken_completes hb hh hd rfl ht hbytes hlast
    rw [hr] at hdone
    have hrun : Sys2Proof.core.run (as.count .pending + 3) s = _ := core_run_add 2 hdone
    rw [hrun]
    exact run_two_of_watching rfl rfl (Bool.or_true _) rfl

end Sys2Proof.Machine
end

section
/-!
PROOFS. The reference device `D0` of 20_memory.md R66 behind the block. It answers every call at once, so each operation
completes on it (`exec_onDevice`); what it returns and what becomes of its registers is said once for each transaction
shape of R47 to R50 and carried to the operations through their transactions (R44).
-/

namespace Sys2Proof.Machine

/-! ### The address byte, taken apart (30_encoding.md R80, 40_codec_functions.md R87) -/

theorem addrByte_rd (a : Addr) (rd inc : BitVec 1) : (addrByte a rd inc).getLsbD 7 = rd.getLsbD 0 := by
  simp [addrByte]

theorem addrByte_inc (a : Addr) (rd inc : BitVec 1) : (addrByte a rd inc).getLsbD 6 = inc.getLsbD 0 := by
  simp [addrByte]

theorem addrByte_address (a : Addr) (rd inc : BitVec 1) : (addrByte a rd inc).extractLsb' 0 6 = a := by
  apply BitVec.eq_of_getLsbD_eq
  intro n hn
  simp [addrByte, hn, show n < 7 by omega, show n < 8 by omega]

/-! ### Calls one after the other -/

/-- The bytes that `D0` returns for a list of calls, and the device after them. -/
def RefDevice.serve (d : RefDevice) : List Call → List Byte × RefDevice
  | [] => ([], d)
  | c :: cs => ((d.call c).1 :: (RefDevice.serve (d.call c).2 cs).1, (RefDevice.serve (d.call c).2 cs).2)

/-- `D0` leaves no call waiting (R66). -/
theorem transport_serve_reference (d : RefDevice) (cs : List Call) :
    (Transport.reference d).serve cs = some ((d.serve cs).1, .reference (d.serve cs).2) := by
  induction cs generalizing d with
  | nil => rfl
  | cons c cs ih => exact serve_cons_of (t' := .reference (d.call c).2) rfl (ih _)

theorem refDevice_serve_append (d : RefDevice) (cs cs' : List Call) :
    d.serve (cs ++ cs') = ((d.serve cs).1 ++ ((d.serve cs).2.serve cs').1, ((d.serve cs).2.serve cs').2) := by
  induction cs generalizing d with
  | nil => rfl
  | cons c cs ih => simp only [List.cons_append, RefDevice.serve, ih]

/-! ### The transactions (R47 to R50) -/

/-- `D0` once selected and given an address byte: it stands at that address, with the flags of that byte (R66). -/
def RefDevice.addressed (d : RefDevice) (a : Addr) (rd inc : BitVec 1) : RefDevice :=
  { d with p := a, rd := rd.getLsbD 0, inc := inc.getLsbD 0, phase := .data }

/-- Every transaction opens with `SEL` and the address byte (R46). -/
theorem refDevice_serve_address (d : RefDevice) (a : Addr) (rd inc : BitVec 1) (cs : List Call) :
    d.serve (.sel :: .xfer (addrByte a rd inc) :: cs) =
      (0x00#8 :: 0x00#8 :: ((d.addressed a rd inc).serve cs).1, ((d.addressed a rd inc).serve cs).2) := by
  simp only [RefDevice.serve, RefDevice.call, RefDevice.transfer, RefDevice.addressed, addrByte_rd, addrByte_inc,
    addrByte_address]

theorem refDevice_serve_write (c : Config) (d : RefDevice) (a : Addr) (v : Byte) :
    d.serve ((Txn.write a v).calls c) =
      ([0x00#8, 0x00#8, 0x00#8, 0x00#8], { d.addressed a 0#1 0#1 with reg := Memory.write d.reg a.toNat v }) :=
  refDevice_serve_address d a 0#1 0#1 [.xfer v, .desel]

theorem refDevice_serve_read (c : Config) (d : RefDevice) (a : Addr) :
    d.serve ((Txn.read a).calls c) =
      ([0x00#8, 0x00#8, Memory.read d.reg a.toNat, 0x00#8], d.addressed a 1#1 0#1) :=
  refDevice_serve_address d a 1#1 0#1 [.xfer c.filler, .desel]

/-- The second data byte of a burst comes from the next address, within 6 bits (R49, R66). -/
theorem refDevice_serve_burst (c : Config) (d : RefDevice) (a : Addr) :
    d.serve ((Txn.burst a).calls c) =
      ([0x00#8, 0x00#8, Memory.read d.reg a.toNat, Memory.read d.reg (a + 1#6).toNat, 0x00#8],
        d.addressed (a + 1#6 + 1#6) 1#1 1#1) :=
  refDevice_serve_address d a 1#1 1#1 [.xfer c.filler, .xfer c.filler, .desel]

/-- For `D0` the filter reset is a read of its address (R50, R66). -/
theorem refDevice_serve_resetFilter (c : Config) (d : RefDevice) :
    d.serve (Txn.resetFilter.calls c) =
      ([0x00#8, 0x00#8, Memory.read d.reg c.addrHpReset.toNat, 0x00#8], d.addressed c.addrHpReset 1#1 0#1) :=
  refDevice_serve_address d c.addrHpReset 1#1 0#1 [.xfer 0x00#8, .desel]

/-- A transaction whose address byte has the read flag leaves the registers of `D0` as they were. -/
theorem refDevice_serve_reg_of_read_flag {c : Config} {x : Txn} (hx : (x.addressByte c).getLsbD 7 = true)
    (d : RefDevice) : (d.serve (x.calls c)).2.reg = d.reg := by
  cases x with
  | write a v => exact absurd ((addrByte_rd a 0#1 0#1).symm.trans hx) (by decide)
  | read a => rw [refDevice_serve_read]; rfl
  | burst a => rw [refDevice_serve_burst]; rfl
  | resetFilter => rw [refDevice_serve_resetFilter]; rfl

theorem refDevice_serve_reg_of_read_flags {c : Config} {xs : List Txn}
    (hxs : ∀ x ∈ xs, (x.addressByte c).getLsbD 7 = true) (d : RefDevice) :
    (d.serve (xs.flatMap (Txn.calls c))).2.reg = d.reg := by
  induction xs generalizing d with
  | nil => rfl
  | cons x xs ih =>
    obtain ⟨hx, hrest⟩ := List.forall_mem_cons.1 hxs
    rw [List.flatMap_cons, refDevice_serve_append, ih hrest, refDevice_serve_reg_of_read_flag hx]

/-! ### The operations on the device -/

/-- The calls of an operation are those of its transactions (R44, R46). -/
theorem scriptCalls_eq_transactions (c : Config) (i : Instr) :
    scriptCalls c i = (transactions c i).flatMap (Txn.calls c) := by
  cases i <;> rfl

/-- On `D0` every operation of an idle block completes: the device has served its calls, and the result is the one for
the bytes that it returned (10_state.md R21, R31). -/
theorem exec_onDevice (i : Instr) {s : State} {d : RefDevice} (hb : s.busy = false) (ht : s.transport = .reference d) :
    ∃ t, exec i s = .next t ∧ t.busy = false ∧ t.transport = .reference (d.serve (scriptCalls s.cfg i)).2 ∧
      ∀ r, resultOfBytes i (d.serve (scriptCalls s.cfg i)).1 = some r → t.res = r ∧ t.resv = true := by
  have hserve : s.transport.serve (scriptCalls s.cfg i) = _ := ht ▸ transport_serve_reference d (scriptCalls s.cfg i)
  have hlength : (d.serve (scriptCalls s.cfg i)).1.length = (script s.cfg i).length := by
    simpa [scriptCalls] using serve_length hserve
  have hdone := completed_script (v := s.start) hlength (.reference (d.serve (scriptCalls s.cfg i)).2)
  refine ⟨_, (exec_served hb hserve).trans (congrArg Host.Outcome.next hdone), rfl, rfl, fun r hr => ?_⟩
  simp [hr]

/-- On `D0` an operation whose one transaction is a write completes, replaces the register at its address, and
leaves every other one alone (R47, R63). -/
theorem exec_write_onDevice {i : Instr} {s : State} {d : RefDevice} {a : Addr} {v : Byte} (hb : s.busy = false)
    (ht : s.transport = .reference d) (hwf : Memory.wf d.reg = true) (hi : transactions s.cfg i = [.write a v]) :
    ∃ (t : State) (d' : RefDevice), exec i s = .next t ∧ t.busy = false ∧ t.transport = .reference d' ∧
      Memory.read d'.reg a.toNat = v ∧ ∀ k, k ≠ a.toNat → Memory.read d'.reg k = Memory.read d.reg k := by
  obtain ⟨t, hexec, hidle, hdev, -⟩ := exec_onDevice i hb ht
  have hcalls : scriptCalls s.cfg i = (Txn.write a v).calls s.cfg := by
    rw [scriptCalls_eq_transactions, hi, List.flatMap_singleton]
  rw [hcalls, refDevice_serve_write] at hdev
  exact ⟨t, _, hexec, hidle, hdev, read_write_same hwf v, fun k hk => read_write_other hwf hk v⟩

/-- Settles O37: each setter is one write transaction (`exec_write_onDevice`). -/
theorem settersWriteOneDeviceRegister : Obligations.SettersWriteOneDeviceRegister := by
  intro s d hb ht hwf
  exact ⟨fun _ _ => exec_write_onDevice hb ht hwf rfl, fun _ _ _ _ _ _ => exec_write_onDevice hb ht hwf rfl,
    fun _ _ _ _ _ => exec_write_onDevice hb ht hwf rfl⟩

/-- The operations that return a value, and the filter reset, set the read flag in each transaction (R44, R50). -/
theorem transactions_read_flag {i : Instr} (h : returnsValue i = true ∨ i = .rstfilt) (c : Config) :
    ∀ x ∈ transactions c i, (x.addressByte c).getLsbD 7 = true := by
  cases i with
  | setctrl1 | setctrl2 | setctrl3 => simp [returnsValue] at h
  | _ => simp only [transactions, List.forall_mem_cons, Txn.addressByte, addrByte_rd]; simp

/-- Settles O38: each transaction of these operations has the read flag, and `D0` takes no byte in such a one. -/
theorem readsLeaveDeviceRegisters : Obligations.ReadsLeaveDeviceRegisters := by
  intro i s d hb ht hi
  obtain ⟨t, hexec, hidle, hdev, -⟩ := exec_onDevice i hb ht
  refine ⟨t, _, hexec, hidle, hdev, fun k => ?_⟩
  rw [scriptCalls_eq_transactions, refDevice_serve_reg_of_read_flags (transactions_read_flag hi s.cfg)]

/-! ### The two protocols (R53, 40_codec_functions.md R101) -/

/-- In a valid build the pointer of a burst stands at the high byte after the low one, without a wrap at `0x3F`
(00_scope.md R9 (b)). -/
theorem outH_eq_outL_succ {c : Config} (h : c.Valid) (a : Axis) : c.outH a = c.outL a + 1#6 := by
  obtain ⟨hx, hy, hz, -⟩ := h
  have hsucc {low high : Addr} (e : high.toNat = low.toNat + 1) : high = low + 1#6 := by bv_omega
  cases a with
  | x => exact hsucc hx
  | y => exact hsucc hy
  | z => exact hsucc hz

/-- The discrete protocol returns the two registers of its axis, each read by a transaction of its own (R118). -/
theorem resultOfBytes_rdd_onDevice (c : Config) (d : RefDevice) (a : Axis) :
    resultOfBytes (.rdd a) (d.serve (scriptCalls c (.rdd a))).1 =
      some (Memory.read d.reg (c.outH a).toNat ++ Memory.read d.reg (c.outL a).toNat) := by
  have hcalls : scriptCalls c (.rdd a) = (Txn.read (c.outH a)).calls c ++ (Txn.read (c.outL a)).calls c := rfl
  rw [hcalls, refDevice_serve_append, refDevice_serve_read, refDevice_serve_read]
  rfl

/-- The burst protocol returns the register at the low address and the one after it (R119). -/
theorem resultOfBytes_rdb_onDevice (c : Config) (d : RefDevice) (a : Axis) :
    resultOfBytes (.rdb a) (d.serve (scriptCalls c (.rdb a))).1 =
      some (Memory.read d.reg (c.outL a + 1#6).toNat ++ Memory.read d.reg (c.outL a).toNat) := by
  have hcalls : scriptCalls c (.rdb a) = (Txn.burst (c.outL a)).calls c := rfl
  rw [hcalls, refDevice_serve_burst]
  rfl

/-- Settles O39: both protocols return the two registers of the axis, the burst because the address after the low byte's
is the high byte's (`outH_eq_outL_succ`). -/
theorem bothProtocolsReadTheSameSample : Obligations.BothProtocolsReadTheSameSample := by
  intro a s d hb ht hvalid
  obtain ⟨t, hexecT, hidleT, -, hresT⟩ := exec_onDevice (.rdd a) hb ht
  obtain ⟨u, hexecU, hidleU, -, hresU⟩ := exec_onDevice (.rdb a) hb ht
  obtain ⟨hrt, hvt⟩ := hresT _ (resultOfBytes_rdd_onDevice s.cfg d a)
  obtain ⟨hru, hvu⟩ := hresU _ (resultOfBytes_rdb_onDevice s.cfg d a)
  rw [← outH_eq_outL_succ hvalid a] at hru
  exact ⟨t, u, hexecT, hexecU, hidleT, hidleU, hrt.trans hru.symm, hrt, hvt, hvu⟩

end Sys2Proof.Machine
end

section
/-!
PROOFS. Bit vectors by parts: a concatenation is its two fields, and a mask of concatenated parts acts on the fields.
The reserved masks of 30_encoding.md R75 are read this way: each one says that the high bits of `w[11:0]` are 0.
-/

namespace Sys2Proof

theorem extractLsb'_extractLsb' {n : Nat} (x : BitVec n) {s l s' l' : Nat} (h : s' + l' ≤ l) :
    (x.extractLsb' s l).extractLsb' s' l' = x.extractLsb' (s + s') l' := by
  apply BitVec.eq_of_getLsbD_eq
  intro k hk
  simp [hk, show s' + k < l by omega, Nat.add_assoc]

theorem eq_append_iff {m n : Nat} {x : BitVec (m + n)} {a : BitVec m} {b : BitVec n} :
    x = a ++ b ↔ x.extractLsb' n m = a ∧ x.extractLsb' 0 n = b := by
  constructor
  · rintro rfl
    exact ⟨BitVec.extractLsb'_append_eq_left, BitVec.extractLsb'_append_eq_right⟩
  · rintro ⟨rfl, rfl⟩
    exact BitVec.extractLsb'_append_extractLsb'.symm

/-- A field with a concatenation in it, taken apart. -/
theorem extractLsb'_eq_append_iff {m n k s : Nat} {x : BitVec k} {a : BitVec m} {b : BitVec n} :
    x.extractLsb' s (m + n) = a ++ b ↔ x.extractLsb' (s + n) m = a ∧ x.extractLsb' s n = b := by
  rw [eq_append_iff, extractLsb'_extractLsb' x (by omega), extractLsb'_extractLsb' x (by omega), Nat.add_zero]

theorem and_append_eq_iff {m n : Nat} (x : BitVec (m + n)) (a c : BitVec m) (b d : BitVec n) :
    x &&& (a ++ b) = c ++ d ↔ x.extractLsb' n m &&& a = c ∧ x.extractLsb' 0 n &&& b = d := by
  rw [eq_append_iff, BitVec.extractLsb'_and, BitVec.extractLsb'_and,
    BitVec.extractLsb'_append_eq_left, BitVec.extractLsb'_append_eq_right]

theorem and_highMask_eq_zero_iff {m n : Nat} (x : BitVec (m + n)) :
    x &&& (BitVec.allOnes m ++ 0#n) = 0#(m + n) ↔ x.extractLsb' n m = 0#m := by
  rw [← BitVec.zero_append_zero, and_append_eq_iff]
  simp

/-! ### The reserved masks (R75): the zero bits `Z` of a word (R67), then the unused high bits of `ARG` (R73) -/

theorem and_FFF_eq_zero_iff (x : BitVec 12) : x &&& 0xFFF#12 = 0#12 ↔ x = 0#12 := by
  rw [show 0xFFF#12 = BitVec.allOnes 12 from rfl, BitVec.and_allOnes]

theorem and_FF8_eq_zero_iff (x : BitVec 12) :
    x &&& 0xFF8#12 = 0#12 ↔ x.extractLsb' 8 4 = 0#4 ∧ x.extractLsb' 3 5 = 0#5 :=
  (and_highMask_eq_zero_iff (m := 9) (n := 3) x).trans (extractLsb'_eq_append_iff (a := 0#4) (b := 0#5))

theorem and_FFC_eq_zero_iff (x : BitVec 12) :
    x &&& 0xFFC#12 = 0#12 ↔ x.extractLsb' 8 4 = 0#4 ∧ x.extractLsb' 2 6 = 0#6 :=
  (and_highMask_eq_zero_iff (m := 10) (n := 2) x).trans (extractLsb'_eq_append_iff (a := 0#4) (b := 0#6))

theorem and_FC0_eq_zero_iff (x : BitVec 12) :
    x &&& 0xFC0#12 = 0#12 ↔ x.extractLsb' 8 4 = 0#4 ∧ x.extractLsb' 6 2 = 0#2 :=
  (and_highMask_eq_zero_iff (m := 6) (n := 6) x).trans (extractLsb'_eq_append_iff (a := 0#4) (b := 0#2))

/-- Under `P12` and `P16` bit 0 of `SETCTRL2` is reserved as well (R74). -/
theorem and_FC1_eq_zero_iff (x : BitVec 12) :
    x &&& 0xFC1#12 = 0#12 ↔ (x.extractLsb' 8 4 = 0#4 ∧ x.extractLsb' 6 2 = 0#2) ∧ x.extractLsb' 0 1 = 0#1 := by
  have hsplit := and_append_eq_iff (m := 11) (n := 1) x (BitVec.allOnes 6 ++ 0#5) 0#11 1#1 0#1
  have hhigh := and_highMask_eq_zero_iff (m := 6) (n := 5) (x.extractLsb' 1 11)
  have hlow : x.extractLsb' 0 1 &&& 1#1 = x.extractLsb' 0 1 := BitVec.and_allOnes
  rw [extractLsb'_extractLsb' x (by decide)] at hhigh
  rw [hlow] at hsplit
  exact hsplit.trans (and_congr_left' (hhigh.trans (extractLsb'_eq_append_iff (a := 0#4) (b := 0#2))))

end Sys2Proof
end

section
/-!
PROOFS. The decoder and the encoder (30_encoding.md R67 to R79, R84). Both are read field by field: `decode` accepts a
word exactly when its reserved bits are 0 and its fields hold the codes of an operation (`decode_eq_instr_iff`), and the
encoding of an operation is the word with those fields (`encode_eq_iff`).
-/

namespace Sys2Proof

/-! ### Operand codes (R69, R71): each field value names the member whose code it is -/

@[simp] theorem Pwr.ofCode_eq_iff {v : BitVec 1} {a : Pwr} : Pwr.ofCode v = a ↔ v = a.code := by
  revert v; cases a <;> decide

@[simp] theorem Rate.ofCode_eq_iff {v : BitVec 2} {a : Rate} : Rate.ofCode v = a ↔ v = a.code := by
  revert v; cases a <;> decide

@[simp] theorem Fs.ofCode_eq_iff {v : BitVec 1} {a : Fs} : Fs.ofCode v = a ↔ v = a.code := by
  revert v; cases a <;> decide

@[simp] theorem Bdu.ofCode_eq_iff {v : BitVec 1} {a : Bdu} : Bdu.ofCode v = a ↔ v = a.code := by
  revert v; cases a <;> decide

@[simp] theorem Ien.ofCode_eq_iff {v : BitVec 1} {a : Ien} : Ien.ofCode v = a ↔ v = a.code := by
  revert v; cases a <;> decide

@[simp] theorem Drdy.ofCode_eq_iff {v : BitVec 1} {a : Drdy} : Drdy.ofCode v = a ↔ v = a.code := by
  revert v; cases a <;> decide

@[simp] theorem Sim.ofCode_eq_iff {v : BitVec 1} {a : Sim} : Sim.ofCode v = a ↔ v = a.code := by
  revert v; cases a <;> decide

@[simp] theorem Align.ofCode_eq_iff {v : BitVec 1} {a : Align} : Align.ofCode v = a ↔ v = a.code := by
  revert v; cases a <;> decide

@[simp] theorem Eck.ofCode_eq_iff {v : BitVec 1} {a : Eck} : Eck.ofCode v = a ↔ v = a.code := by
  revert v; cases a <;> decide

@[simp] theorem Hpdd.ofCode_eq_iff {v : BitVec 1} {a : Hpdd} : Hpdd.ofCode v = a ↔ v = a.code := by
  revert v; cases a <;> decide

@[simp] theorem Hpff.ofCode_eq_iff {v : BitVec 1} {a : Hpff} : Hpff.ofCode v = a ↔ v = a.code := by
  revert v; cases a <;> decide

@[simp] theorem Fds.ofCode_eq_iff {v : BitVec 1} {a : Fds} : Fds.ofCode v = a ↔ v = a.code := by
  revert v; cases a <;> decide

@[simp] theorem Cfs.ofCode_eq_iff {v : BitVec 2} {a : Cfs} : Cfs.ofCode v = a ↔ v = a.code := by
  revert v; cases a <;> decide

@[simp] theorem Axis.ofCode_eq_some_iff {v : BitVec 2} {a : Axis} : Axis.ofCode v = some a ↔ v = a.code := by
  revert v; cases a <;> decide

/-- The one field value that names no axis (R70). -/
@[simp] theorem Axis.ofCode_eq_none_iff {v : BitVec 2} : Axis.ofCode v = none ↔ v = 3#2 := by
  revert v; decide

theorem Axis.code_ne_three (a : Axis) : a.code ≠ 3#2 := by
  cases a <;> decide

/-- Where the profile has no alignment operand, the admitted one is that of code 0 (R74). -/
theorem admits_iff {p : Ctrl2Profile} {a : Align} : p.admits a = true ↔ p = .palign ∨ a.code = 0#1 := by
  cases p <;> cases a <;> decide

/-! ### The operand fields of a word (R73) -/

/-- The operand fields of a word hold the codes of the operands of this operation. -/
def Instr.OperandsIn (w : Word) : Instr → Prop
  | .setctrl1 pwr rate => w.extractLsb' 2 1 = pwr.code ∧ w.extractLsb' 0 2 = rate.code
  | .setctrl2 fs bdu ien drdy sim align =>
    w.extractLsb' 5 1 = fs.code ∧ w.extractLsb' 4 1 = bdu.code ∧ w.extractLsb' 3 1 = ien.code ∧
      w.extractLsb' 2 1 = drdy.code ∧ w.extractLsb' 1 1 = sim.code ∧ w.extractLsb' 0 1 = align.code
  | .setctrl3 eck hpdd hpff fds cfs =>
    w.extractLsb' 5 1 = eck.code ∧ w.extractLsb' 4 1 = hpdd.code ∧ w.extractLsb' 3 1 = hpff.code ∧
      w.extractLsb' 2 1 = fds.code ∧ w.extractLsb' 0 2 = cfs.code
  | .rdh axis | .rdl axis | .rdd axis | .rdb axis => w.extractLsb' 0 2 = axis.code
  | .getid | .beginCheck | .rstfilt | .rdstatus => True

/-- No operation has one of the values of `OP` that R76 leaves free. -/
theorem Instr.op_valid (i : Instr) : ¬ (i.op = 0x0#4 ∨ 0xC#4 ≤ i.op) := by
  cases i <;> simp [Instr.op]

/-- What `readOperands` can read, said once. -/
theorem readOperands_eq_some_iff {op : BitVec 4} {w : Word} {i : Instr} :
    readOperands op w = some i ↔ i.op = op ∧ i.OperandsIn w := by
  constructor
  · unfold readOperands
    split
    case h_3 | h_4 | h_5 =>
      rintro ⟨⟩
      simp [Instr.op, Instr.OperandsIn, ← Pwr.ofCode_eq_iff, ← Rate.ofCode_eq_iff, ← Fs.ofCode_eq_iff,
        ← Bdu.ofCode_eq_iff, ← Ien.ofCode_eq_iff, ← Drdy.ofCode_eq_iff, ← Sim.ofCode_eq_iff, ← Align.ofCode_eq_iff,
        ← Eck.ofCode_eq_iff, ← Hpdd.ofCode_eq_iff, ← Hpff.ofCode_eq_iff, ← Fds.ofCode_eq_iff, ← Cfs.ofCode_eq_iff]
    case h_8 | h_9 | h_10 | h_11 =>
      intro h
      obtain ⟨axis, haxis, rfl⟩ := Option.map_eq_some_iff.1 h
      exact ⟨rfl, Axis.ofCode_eq_some_iff.1 haxis⟩
    case h_12 => exact fun h => absurd h (by simp)
    all_goals
      rintro ⟨⟩
      exact ⟨rfl, trivial⟩
  · rintro ⟨rfl, h⟩
    cases i with
    | getid | beginCheck | rstfilt | rdstatus => rfl
    | _ => simpa [readOperands, Instr.op, Instr.OperandsIn] using h

/-- The eleven values of `OP` that name an operation (R72, R76). -/
theorem op_cases : ∀ {op : BitVec 4}, ¬ (op = 0x0#4 ∨ 0xC#4 ≤ op) →
    op ∈ [0x1#4, 0x2#4, 0x3#4, 0x4#4, 0x5#4, 0x6#4, 0x7#4, 0x8#4, 0x9#4, 0xA#4, 0xB#4] := by
  decide

/-- `AXIS = 3` is all that a word with a valid `OP` can have against it once its reserved bits are 0 (R70). -/
theorem readOperands_eq_none_iff {op : BitVec 4} {w : Word} (h : ¬ (op = 0x0#4 ∨ 0xC#4 ≤ op)) :
    readOperands op w = none ↔ 0x8#4 ≤ op ∧ w.extractLsb' 0 2 = 3#2 := by
  unfold readOperands
  split
  case h_12 =>
    have hcases := op_cases h
    simp_all
  all_goals simp

/-! ### What the decoder accepts and refuses (R75) -/

theorem decode_eq_instr_iff {p : Ctrl2Profile} {w : Word} {i : Instr} :
    decode p w = .instr i ↔
      w.extractLsb' 0 12 &&& reservedMask p (opField w) = 0#12 ∧ i.op = opField w ∧ i.OperandsIn w := by
  rw [← readOperands_eq_some_iff]
  unfold decode
  split
  next hop =>
    have hnone : readOperands (opField w) w ≠ some i := fun h =>
      i.op_valid ((readOperands_eq_some_iff.1 h).1 ▸ hop)
    simp [hnone]
  next =>
    split
    next hmask => simp [hmask]
    next hmask =>
      cases readOperands (opField w) w <;> simp [not_not.1 hmask]

theorem decode_of_bad_op {p : Ctrl2Profile} {w : Word} (hop : opField w = 0x0#4 ∨ 0xC#4 ≤ opField w) :
    decode p w = .refused .badOp := by
  rw [decode, if_pos hop]

theorem decode_of_reserved_bit {p : Ctrl2Profile} {w : Word} (hop : ¬ (opField w = 0x0#4 ∨ 0xC#4 ≤ opField w))
    (hmask : w.extractLsb' 0 12 &&& reservedMask p (opField w) ≠ 0#12) : decode p w = .refused .badReserved := by
  rw [decode, if_neg hop, if_pos hmask]

theorem decode_of_axis_three {p : Ctrl2Profile} {w : Word} (hop : ¬ (opField w = 0x0#4 ∨ 0xC#4 ≤ opField w))
    (hmask : w.extractLsb' 0 12 &&& reservedMask p (opField w) = 0#12) (hread : 0x8#4 ≤ opField w)
    (haxis : w.extractLsb' 0 2 = 3#2) : decode p w = .refused .badAxis := by
  rw [decode, if_neg hop, if_neg (not_not.2 hmask), (readOperands_eq_none_iff hop).2 ⟨hread, haxis⟩]

/-- A word with a valid `OP`, no reserved bit and no `AXIS = 3` names an operation (R75). -/
theorem exists_decode_of_fields {p : Ctrl2Profile} {w : Word} (hop : ¬ (opField w = 0x0#4 ∨ 0xC#4 ≤ opField w))
    (hmask : w.extractLsb' 0 12 &&& reservedMask p (opField w) = 0#12)
    (haxis : 0x8#4 ≤ opField w → w.extractLsb' 0 2 ≠ 3#2) : ∃ i, decode p w = .instr i := by
  have hread : readOperands (opField w) w ≠ none := by
    rw [ne_eq, readOperands_eq_none_iff hop]
    exact fun ⟨h8, h3⟩ => haxis h8 h3
  obtain ⟨i, hi⟩ := Option.ne_none_iff_exists'.1 hread
  exact ⟨i, decode_eq_instr_iff.2 ⟨hmask, readOperands_eq_some_iff.1 hi⟩⟩

/-! ### The encoding (R67, R73, R84) -/

theorem encode_eq_iff {i : Instr} {w : Word} :
    encode i = w ↔ i.op = opField w ∧ w.extractLsb' 0 12 = (0#4 ++ i.arg : BitVec (4 + 8)) := by
  have hparts : encode i = (i.op ++ (0#4 ++ i.arg) : BitVec (4 + (4 + 8))) := BitVec.append_assoc
  have hsplit : w = (i.op ++ (0#4 ++ i.arg) : BitVec (4 + (4 + 8))) ↔ _ := eq_append_iff (m := 4) (n := 12)
  rw [hparts, eq_comm, hsplit, @eq_comm _ i.op]
  rfl

/-- The reserved bits of `SETCTRL2`: bit 0 among them where the profile has no alignment operand (R74). -/
theorem and_reservedMask_setctrl2_iff {p : Ctrl2Profile} {w : Word} :
    w.extractLsb' 0 12 &&& reservedMask p 0x4#4 = 0#12 ↔
      (w.extractLsb' 8 4 = 0#4 ∧ w.extractLsb' 6 2 = 0#2) ∧ (p = .palign ∨ w.extractLsb' 0 1 = 0#1) := by
  cases p with
  | palign => simp [reservedMask, and_FC0_eq_zero_iff, extractLsb'_extractLsb']
  | p12 | p16 => simp [reservedMask, and_FC1_eq_zero_iff, extractLsb'_extractLsb']

/-- The low twelve bits of a word are the argument of an operation of the build exactly when the reserved bits are 0 and
the operand fields hold its operands (R73, R75). Each row writes the argument out, so that it can be taken apart. -/
theorem low_eq_arg_iff {p : Ctrl2Profile} {i : Instr} {w : Word} :
    i.wf p = true ∧ w.extractLsb' 0 12 = (0#4 ++ i.arg : BitVec (4 + 8)) ↔
      w.extractLsb' 0 12 &&& reservedMask p i.op = 0#12 ∧ i.OperandsIn w := by
  cases i with
  | getid | beginCheck | rstfilt | rdstatus =>
    change true = true ∧ _ = 0#12 ↔ _ &&& 0xFFF#12 = 0#12 ∧ True
    simp only [and_FFF_eq_zero_iff, true_and, and_true]
  | setctrl1 pwr rate =>
    change true = true ∧ w.extractLsb' 0 (4 + (5 + 1 + 2)) = 0#4 ++ (0#5 ++ pwr.code ++ rate.code) ↔
      _ &&& 0xFF8#12 = 0#12 ∧ _
    simp only [extractLsb'_eq_append_iff]
    simp [and_FF8_eq_zero_iff, extractLsb'_extractLsb', Instr.OperandsIn, and_assoc]
  | setctrl2 fs bdu ien drdy sim align =>
    change p.admits align = true ∧ w.extractLsb' 0 (4 + (2 + 1 + 1 + 1 + 1 + 1 + 1)) =
      0#4 ++ (0#2 ++ fs.code ++ bdu.code ++ ien.code ++ drdy.code ++ sim.code ++ align.code) ↔
      _ &&& reservedMask p 0x4#4 = 0#12 ∧ _
    simp only [extractLsb'_eq_append_iff]
    simp only [and_reservedMask_setctrl2_iff, Instr.OperandsIn, admits_iff, Nat.reduceAdd]
    grind
  | setctrl3 eck hpdd hpff fds cfs =>
    change true = true ∧ w.extractLsb' 0 (4 + (2 + 1 + 1 + 1 + 1 + 2)) =
      0#4 ++ (0#2 ++ eck.code ++ hpdd.code ++ hpff.code ++ fds.code ++ cfs.code) ↔ _ &&& 0xFC0#12 = 0#12 ∧ _
    simp only [extractLsb'_eq_append_iff]
    simp [and_FC0_eq_zero_iff, extractLsb'_extractLsb', Instr.OperandsIn, and_assoc]
  | rdh axis | rdl axis | rdd axis | rdb axis =>
    change true = true ∧ w.extractLsb' 0 (4 + (6 + 2)) = 0#4 ++ (0#6 ++ axis.code) ↔ _ &&& 0xFFC#12 = 0#12 ∧ _
    simp only [extractLsb'_eq_append_iff]
    simp [and_FFC_eq_zero_iff, extractLsb'_extractLsb', Instr.OperandsIn, and_assoc]

/-- The round trip of a word and an operation, both ways at once: the word's fields hold the operation. -/
theorem decode_eq_instr_iff_encode {p : Ctrl2Profile} {w : Word} {i : Instr} :
    decode p w = .instr i ↔ i.wf p = true ∧ encode i = w := by
  rw [decode_eq_instr_iff, encode_eq_iff, and_left_comm, and_left_comm (a := i.wf p = true), low_eq_arg_iff]
  exact and_congr_right fun hop => hop ▸ Iff.rfl

end Sys2Proof
end

section
/-!
PROOFS. The statements on command words (30_encoding.md R72 to R79), from the fields of a word: its round trip, its row
of the opcode table, its refusal code, how many words name an operation, and what the profile changes.
-/

namespace Sys2Proof

open Sys2Proof.Machine

/-- Settles O15, by `decode_eq_instr_iff_encode`. -/
theorem decodeOfEncode : Obligations.DecodeOfEncode :=
  fun _ _ hwf => decode_eq_instr_iff_encode.2 ⟨hwf, rfl⟩

/-- Settles O16, by the other direction of `decode_eq_instr_iff_encode`. -/
theorem acceptedWordIsItsEncoding : Obligations.AcceptedWordIsItsEncoding :=
  fun _ _ _ => decode_eq_instr_iff_encode.1

/-- Settles O20. -/
theorem decodeOfWrittenWords : Obligations.DecodeOfWrittenWords := by
  unfold Obligations.DecodeOfWrittenWords
  decide

/-! ### The rows of the opcode table (R72) -/

theorem and_rowMask_eq_rowMatch_iff {p : Ctrl2Profile} {w : Word} {i : Instr} :
    w &&& rowMask p i = rowMatch i ↔ opField w = i.op ∧ w.extractLsb' 0 12 &&& reservedMask p i.op = 0#12 := by
  have hsplit := and_append_eq_iff (m := 4) (n := 12) w 0xF#4 i.op (reservedMask p i.op) 0#12
  have hall : opField w &&& 0xF#4 = opField w := BitVec.and_allOnes
  exact hall ▸ hsplit

theorem axis_ne_three_of_operandsIn {w : Word} {i : Instr} (h : i.OperandsIn w) (hop : 0x8#4 ≤ i.op) :
    w.extractLsb' 0 2 ≠ 3#2 := by
  cases i with
  | rdh axis | rdl axis | rdd axis | rdb axis => exact fun h3 => axis.code_ne_three (h.symm.trans h3)
  | _ => exact absurd hop (by simp [Instr.op])

/-- A transaction makes one `XFER` for its address byte and one for each data byte (20_memory.md R46). -/
theorem countP_xfer_calls (c : Config) (x : Txn) :
    (x.calls c).countP (fun k => k ≠ .sel ∧ k ≠ .desel) = (x.dataBytes c).length + 1 := by
  simp [Txn.calls, List.countP_append, List.countP_map]

theorem countP_xfer_scriptCalls (c : Config) (i : Instr) :
    (scriptCalls c i).countP (fun k => k ≠ .sel ∧ k ≠ .desel) =
      ((transactions c i).map fun x => (x.dataBytes c).length + 1).sum := by
  rw [scriptCalls_eq_transactions, List.countP_flatMap]
  exact congrArg List.sum (List.map_congr_left fun x _ => countP_xfer_calls c x)

/-- How many `XFER`s an operation makes, and how many events in all (R72). -/
def Instr.eventCounts : Instr → Nat × Nat
  | .rdd _ => (4, 8)
  | .rdb _ => (3, 5)
  | _ => (2, 4)

theorem eventCounts_eq (c : Config) (i : Instr) :
    ((scriptCalls c i).countP (fun k => k ≠ .sel ∧ k ≠ .desel), (script c i).length) = i.eventCounts := by
  rw [countP_xfer_scriptCalls]
  cases i <;> rfl

/-- Settles O17: a word agrees with a row under its mask exactly when it has that `OP` and no reserved bit
(`and_rowMask_eq_rowMatch_iff`), and only `AXIS = 3` can then be against it (`exists_decode_of_fields`). -/
theorem wordSelectsItsTableRow : Obligations.WordSelectsItsTableRow := by
  refine ⟨fun c i => ?_, fun p w i h => ?_, fun p w j hrow haxis => ?_⟩
  · rw [eventCounts_eq]
    cases i with
    | setctrl2 => cases c.profile <;> simp [rowMatch, rowMask, Instr.op, reservedMask, Instr.eventCounts]
    | _ => simp [rowMatch, rowMask, Instr.op, reservedMask, Instr.eventCounts]
  · obtain ⟨hmask, hop, hfields⟩ := decode_eq_instr_iff.1 h
    exact ⟨and_rowMask_eq_rowMatch_iff.2 ⟨hop.symm, hop ▸ hmask⟩, axis_ne_three_of_operandsIn hfields⟩
  · obtain ⟨hop, hmask⟩ := and_rowMask_eq_rowMatch_iff.1 hrow
    obtain ⟨i, hi⟩ := exists_decode_of_fields (hop ▸ j.op_valid) (hop ▸ hmask) (hop ▸ haxis)
    obtain ⟨-, hiop, -⟩ := decode_eq_instr_iff.1 hi
    exact ⟨i, hi, hiop.trans hop⟩

/-! ### The refusal code (R75) -/

theorem refuseCode_eq_zero_iff {p : Ctrl2Profile} {w : Word} : refuseCode p w = 0#2 ↔ ∃ i, decode p w = .instr i := by
  unfold refuseCode
  cases decode p w with
  | instr i => simp
  | refused c => cases c <;> simp [RefuseCause.code]

theorem refuseCode_eq_zero_iff_encode {p : Ctrl2Profile} {w : Word} :
    refuseCode p w = 0#2 ↔ ∃ i : Instr, i.wf p = true ∧ encode i = w :=
  refuseCode_eq_zero_iff.trans (exists_congr fun _ => decode_eq_instr_iff_encode)

/-- Settles O18: one case for each branch of the decoder; 0 is the code of the words that decode. -/
theorem refuseCodeInOrder : Obligations.RefuseCodeInOrder := by
  refine ⟨fun p w => ?_, fun p => ?_, fun p w => refuseCode_eq_zero_iff_encode⟩
  · by_cases hop : opField w = 0x0#4 ∨ 0xC#4 ≤ opField w
    · rw [if_pos hop, refuseCode, decode_of_bad_op hop]
      rfl
    by_cases hmask : w.extractLsb' 0 12 &&& reservedMask p (opField w) ≠ 0#12
    · rw [if_neg hop, if_pos hmask, refuseCode, decode_of_reserved_bit hop hmask]
      rfl
    by_cases haxis : 0x8#4 ≤ opField w ∧ opField w ≤ 0xB#4 ∧ w.extractLsb' 0 2 = 3#2
    · rw [if_neg hop, if_neg hmask, if_pos haxis]
      obtain ⟨h8, -, h3⟩ := haxis
      rw [refuseCode, decode_of_axis_three hop (not_not.1 hmask) h8 h3]
      rfl
    have hle : opField w ≤ 0xB#4 := by bv_omega
    rw [if_neg hop, if_neg hmask, if_neg haxis]
    exact refuseCode_eq_zero_iff.2
      (exists_decode_of_fields hop (not_not.1 hmask) fun h8 h3 => haxis ⟨h8, hle, h3⟩)
  · cases p <;> simp [reservedMask]

/-! ### The count of accepted words -/

/-- The values of a one-bit and of a two-bit operand field. -/
def oneBit : List (BitVec 1) := [0#1, 1#1]

def twoBits : List (BitVec 2) := [0#2, 1#2, 2#2, 3#2]

@[simp] theorem mem_oneBit (v : BitVec 1) : v ∈ oneBit := by
  revert v; decide

@[simp] theorem mem_twoBits (v : BitVec 2) : v ∈ twoBits := by
  revert v; decide

/-- Every operation of the opcode table with every operand, in the order of the encodings (R72, R73). -/
def Instr.all : List Instr := List.flatten [
  [.getid, .beginCheck],
  oneBit.flatMap fun v2 => twoBits.map fun v1 => .setctrl1 (Pwr.ofCode v2) (Rate.ofCode v1),
  oneBit.flatMap fun v5 => oneBit.flatMap fun v4 => oneBit.flatMap fun v3 => oneBit.flatMap fun v2 =>
    oneBit.flatMap fun v1 => oneBit.map fun v0 => .setctrl2 (Fs.ofCode v5) (Bdu.ofCode v4) (Ien.ofCode v3)
      (Drdy.ofCode v2) (Sim.ofCode v1) (Align.ofCode v0),
  oneBit.flatMap fun v5 => oneBit.flatMap fun v4 => oneBit.flatMap fun v3 => oneBit.flatMap fun v2 =>
    twoBits.map fun v1 => .setctrl3 (Eck.ofCode v5) (Hpdd.ofCode v4) (Hpff.ofCode v3) (Fds.ofCode v2) (Cfs.ofCode v1),
  [.rstfilt, .rdstatus],
  [.rdh .x, .rdh .y, .rdh .z], [.rdl .x, .rdl .y, .rdl .z], [.rdd .x, .rdd .y, .rdd .z], [.rdb .x, .rdb .y, .rdb .z]]

theorem Instr.mem_all (i : Instr) : i ∈ Instr.all := by
  cases i with
  | rdh axis | rdl axis | rdd axis | rdb axis => cases axis <;> simp [Instr.all]
  | _ => simp [Instr.all]

/-- The words of a build, in ascending order. -/
def acceptedWords (p : Ctrl2Profile) : List Word := (Instr.all.filter (·.wf p)).map encode

theorem mem_acceptedWords {p : Ctrl2Profile} {w : Word} : w ∈ acceptedWords p ↔ refuseCode p w = 0#2 := by
  simp [acceptedWords, Instr.mem_all, refuseCode_eq_zero_iff_encode]

set_option maxRecDepth 4000 in
theorem acceptedWords_ascending (p : Ctrl2Profile) : (acceptedWords p).IsChain (· < ·) := by
  cases p <;> decide

theorem acceptedWords_nodup (p : Ctrl2Profile) : (acceptedWords p).Nodup :=
  (acceptedWords_ascending p).pairwise.imp fun h => BitVec.ne_of_lt h

set_option maxRecDepth 4000 in
theorem acceptedWords_length (p : Ctrl2Profile) : (acceptedWords p).length = if p = .palign then 152 else 120 := by
  rw [acceptedWords, List.length_map]
  cases p <;> decide

/-- Settles O19: the encodings of the operations of a build, in ascending order. -/
theorem countOfAcceptedWords : Obligations.CountOfAcceptedWords :=
  ⟨⟨_, acceptedWords_nodup .palign, acceptedWords_length .palign, fun _ => mem_acceptedWords⟩,
    ⟨_, acceptedWords_nodup .p12, acceptedWords_length .p12, fun _ => mem_acceptedWords⟩,
    ⟨_, acceptedWords_nodup .p16, acceptedWords_length .p16, fun _ => mem_acceptedWords⟩⟩

/-! ### The profiles (R74, R79) -/

theorem decode_congr_profile {p q : Ctrl2Profile} {w : Word}
    (h : w.extractLsb' 0 12 &&& reservedMask p (opField w) = 0#12 ↔
      w.extractLsb' 0 12 &&& reservedMask q (opField w) = 0#12) : decode p w = decode q w := by
  simp only [decode, ne_eq, h]

theorem reservedMask_eq_of_ne_setctrl2 {op : BitVec 4} (h : op ≠ 0x4#4) (p q : Ctrl2Profile) :
    reservedMask p op = reservedMask q op := by
  unfold reservedMask
  split <;> simp_all

theorem bits_11_6_eq_zero_iff {w : Word} :
    w.extractLsb' 6 6 = 0#6 ↔ w.extractLsb' 8 4 = 0#4 ∧ w.extractLsb' 6 2 = 0#2 :=
  extractLsb'_eq_append_iff (a := 0#4) (b := 0#2)

/-- Settles O21: the profile enters the decoder only as bit 0 of the reserved bits of `SETCTRL2`. -/
theorem profileChangesOnlySetctrl2 : Obligations.ProfileChangesOnlySetctrl2 := by
  refine ⟨fun p q w h => decode_congr_profile ?_, fun w hop hhigh hbit => ?_⟩
  · by_cases hop : opField w = 0x4#4
    · rw [hop, and_reservedMask_setctrl2_iff, and_reservedMask_setctrl2_iff, ← bits_11_6_eq_zero_iff]
      rcases h with h | h | h
      · exact absurd hop h
      · simp [h]
      · simp [h]
    · rw [reservedMask_eq_of_ne_setctrl2 hop p q]
  · have hmask (p : Ctrl2Profile) : w.extractLsb' 0 12 &&& reservedMask p (opField w) = 0#12 ↔ p = .palign := by
      rw [hop, and_reservedMask_setctrl2_iff, ← bits_11_6_eq_zero_iff]
      simp [hhigh, hbit]
    have hvalid : ¬ (opField w = 0x0#4 ∨ 0xC#4 ≤ opField w) := by rw [hop]; decide
    refine ⟨exists_decode_of_fields hvalid ((hmask _).2 rfl) fun h => ?_, ?_, ?_⟩
    · exact absurd h (by rw [hop]; decide)
    · exact decode_of_reserved_bit hvalid (by simp [hmask])
    · exact decode_of_reserved_bit hvalid (by simp [hmask])

end Sys2Proof
end

section
/-!
PROOFS. The assembler on listing lines (30_encoding.md R83, R84): the characters of a line fall apart into its mnemonic
and its operands (`readLine_listing`), and these name the operation (`readInstr_listing`).
-/

namespace Sys2Proof

/-! ### Words of a line -/

/-- A mnemonic or a keyword: not empty, and without the characters that separate the parts of a line (R83). -/
def plain (t : List Char) : Bool := t ≠ [] && ' ' ∉ t && ',' ∉ t && ';' ∉ t

theorem plain_iff {t : List Char} : plain t = true ↔ t ≠ [] ∧ ' ' ∉ t ∧ ',' ∉ t ∧ ';' ∉ t := by
  simp [plain, and_assoc]

/-- The scan for the blank behind a mnemonic passes over all of it. -/
theorem ne_blank_of_plain {t : List Char} (h : plain t = true) : ∀ x ∈ t, decide (x ≠ ' ') = true := by
  obtain ⟨-, hblank, -, -⟩ := plain_iff.1 h
  exact fun x hx => decide_eq_true fun e => hblank (e ▸ hx)

theorem comma_not_mem_of_plain {t : List Char} (h : plain t = true) : ',' ∉ t := by
  obtain ⟨-, -, hcomma, -⟩ := plain_iff.1 h
  exact hcomma

/-- A piece of a line with nothing to strip: not empty, no blank at its ends, no comment. -/
structure Stripped (l : List Char) : Prop where
  ne_nil : l ≠ []
  head : l.head? ≠ some ' '
  last : l.getLast? ≠ some ' '
  noComment : ';' ∉ l

theorem stripped_of_plain {t : List Char} (h : plain t = true) : Stripped t := by
  obtain ⟨hne, hblank, -, hcomment⟩ := plain_iff.1 h
  exact ⟨hne, fun e => hblank (List.mem_of_head? e), fun e => hblank (List.mem_of_getLast? e), hcomment⟩

theorem Stripped.append {l l' mid : List Char} (h : Stripped l) (h' : Stripped l') (hmid : ';' ∉ mid) :
    Stripped (l ++ mid ++ l') where
  ne_nil := by simp [h.ne_nil]
  head := by simpa [List.head?_append_of_ne_nil _ h.ne_nil] using h.head
  last := by simpa [List.getLast?_append_of_ne_nil _ h'.ne_nil, h'.ne_nil] using h'.last
  noComment := by simp [h.noComment, h'.noComment, hmid]

theorem Stripped.trimBlanks_eq {l : List Char} (h : Stripped l) : trimBlanks l = l := by
  have hdrop {l : List Char} (h : l.head? ≠ some ' ') : l.dropWhile (· = ' ') = l := by
    cases l with
    | nil => rfl
    | cons x l => exact List.dropWhile_cons_of_neg (by simpa using h)
  rw [trimBlanks, hdrop h.head, hdrop (by rw [List.head?_reverse]; exact h.last), List.reverse_reverse]

theorem Stripped.stripComment_eq {l : List Char} (h : Stripped l) : stripComment l = l :=
  List.takeWhile_eq_self_iff.2 fun x hx => by simpa using fun e : x = ';' => h.noComment (e ▸ hx)

theorem trimBlanks_blank_cons (l : List Char) : trimBlanks (' ' :: l) = trimBlanks l := by
  simp [trimBlanks]

/-! ### Operands -/

theorem splitOperands_append {t : List Char} (h : ',' ∉ t) (acc l : List Char) :
    splitOperands acc (t ++ l) = splitOperands (t.reverse ++ acc) l := by
  induction t generalizing acc with
  | nil => rfl
  | cons x t ih =>
    obtain ⟨hx, ht⟩ := not_or.1 (mt List.mem_cons.2 h)
    rw [List.cons_append, splitOperands, if_neg (Ne.symm hx), ih ht]
    simp

/-- The pieces of joined operands are the operands; `acc` is the blank, if any, in front of the first one. -/
theorem splitOperands_joinOperands {k : String} {ks : List String} (h : ∀ k' ∈ k :: ks, plain k'.toList = true)
    {acc : List Char} (hacc : ∀ t, trimBlanks (acc.reverse ++ t) = trimBlanks t) :
    splitOperands acc (joinOperands (k :: ks)) = (k :: ks).map String.toList := by
  induction ks generalizing k acc with
  | nil =>
    have hk := h k (List.mem_singleton_self k)
    have happ := splitOperands_append (comma_not_mem_of_plain hk) acc []
    rw [List.append_nil] at happ
    simp [joinOperands, happ, splitOperands, hacc, (stripped_of_plain hk).trimBlanks_eq]
  | cons k' ks ih =>
    obtain ⟨hk, hks⟩ := List.forall_mem_cons.1 h
    have hrest := ih hks (acc := [' ']) trimBlanks_blank_cons
    simp only [joinOperands, List.append_assoc, List.map_cons]
    rw [splitOperands_append (comma_not_mem_of_plain hk)]
    simp [splitOperands, hacc, (stripped_of_plain hk).trimBlanks_eq, hrest]

theorem stripped_joinOperands {k : String} {ks : List String} (h : ∀ k' ∈ k :: ks, plain k'.toList = true) :
    Stripped (joinOperands (k :: ks)) := by
  induction ks generalizing k with
  | nil => exact stripped_of_plain (h k (List.mem_singleton_self k))
  | cons k' ks ih =>
    obtain ⟨hk, hks⟩ := List.forall_mem_cons.1 h
    exact (stripped_of_plain hk).append (ih hks) (by decide)

/-! ### Lines -/

theorem readLine_mnemonic {m : List Char} (hm : plain m = true) : readLine m = (m, []) := by
  simp only [readLine, (stripped_of_plain hm).stripComment_eq, (stripped_of_plain hm).trimBlanks_eq]
  rw [List.dropWhile_eq_nil_iff.2 (ne_blank_of_plain hm), List.takeWhile_eq_self_iff.2 (ne_blank_of_plain hm)]
  rfl

theorem readLine_operands {m r : List Char} (hm : plain m = true) (hr : Stripped r) :
    readLine (m ++ [' '] ++ r) = (m, splitOperands [] r) := by
  have hline := (stripped_of_plain hm).append hr (mid := [' ']) (by decide)
  have hrest : (m ++ [' '] ++ r).dropWhile (· ≠ ' ') = ' ' :: r := by
    rw [List.append_assoc, List.dropWhile_append_of_pos (ne_blank_of_plain hm)]
    rfl
  have hfirst : (m ++ [' '] ++ r).takeWhile (· ≠ ' ') = m := by
    rw [List.append_assoc, List.takeWhile_append_of_pos (ne_blank_of_plain hm)]
    simp
  simp only [readLine, hline.stripComment_eq, hline.trimBlanks_eq]
  rw [hrest, hfirst, trimBlanks_blank_cons, hr.trimBlanks_eq, if_neg hr.ne_nil]

/-! ### Keywords (R69): each one is a plain word that reads back as its member -/

@[simp] theorem Pwr.keyword_reads (a : Pwr) :
    plain a.keyword.toList = true ∧ readPwr a.keyword.toList = some a := by
  cases a <;> decide

@[simp] theorem Rate.keyword_reads (a : Rate) :
    plain a.keyword.toList = true ∧ readRate a.keyword.toList = some a := by
  cases a <;> decide

@[simp] theorem Fs.keyword_reads (a : Fs) :
    plain a.keyword.toList = true ∧ readFs a.keyword.toList = some a := by
  cases a <;> decide

@[simp] theorem Bdu.keyword_reads (a : Bdu) :
    plain a.keyword.toList = true ∧ readBdu a.keyword.toList = some a := by
  cases a <;> decide

@[simp] theorem Ien.keyword_reads (a : Ien) :
    plain a.keyword.toList = true ∧ readIen a.keyword.toList = some a := by
  cases a <;> decide

@[simp] theorem Drdy.keyword_reads (a : Drdy) :
    plain a.keyword.toList = true ∧ readDrdy a.keyword.toList = some a := by
  cases a <;> decide

@[simp] theorem Sim.keyword_reads (a : Sim) :
    plain a.keyword.toList = true ∧ readSim a.keyword.toList = some a := by
  cases a <;> decide

@[simp] theorem Align.keyword_reads (a : Align) :
    plain a.keyword.toList = true ∧ readAlign a.keyword.toList = some a := by
  cases a <;> decide

@[simp] theorem Eck.keyword_reads (a : Eck) :
    plain a.keyword.toList = true ∧ readEck a.keyword.toList = some a := by
  cases a <;> decide

@[simp] theorem Hpdd.keyword_reads (a : Hpdd) :
    plain a.keyword.toList = true ∧ readHpdd a.keyword.toList = some a := by
  cases a <;> decide

@[simp] theorem Hpff.keyword_reads (a : Hpff) :
    plain a.keyword.toList = true ∧ readHpff a.keyword.toList = some a := by
  cases a <;> decide

@[simp] theorem Fds.keyword_reads (a : Fds) :
    plain a.keyword.toList = true ∧ readFds a.keyword.toList = some a := by
  cases a <;> decide

@[simp] theorem Cfs.keyword_reads (a : Cfs) :
    plain a.keyword.toList = true ∧ readCfs a.keyword.toList = some a := by
  cases a <;> decide

@[simp] theorem Axis.keyword_reads (a : Axis) :
    plain a.keyword.toList = true ∧ readAxis a.keyword.toList = some a := by
  cases a <;> decide

theorem Instr.mnemonic_plain (i : Instr) : plain i.mnemonic.toList = true := by
  cases i <;> simp [plain, Instr.mnemonic]

theorem Instr.keywords_plain (p : Ctrl2Profile) (i : Instr) : ∀ k ∈ i.keywords p, plain k.toList = true := by
  cases i with
  | setctrl2 => cases p <;> simp [Instr.keywords]
  | _ => simp [Instr.keywords]

/-- A listing line falls apart into the mnemonic and the operand keywords it was made of (R83). -/
theorem readLine_listing (p : Ctrl2Profile) (i : Instr) :
    readLine (i.listing p) = (i.mnemonic.toList, (i.keywords p).map String.toList) := by
  have hplain := i.keywords_plain p
  unfold Instr.listing
  cases hks : i.keywords p with
  | nil => exact readLine_mnemonic i.mnemonic_plain
  | cons k ks =>
    rw [hks] at hplain
    have hoperands := splitOperands_joinOperands hplain (acc := []) fun _ => rfl
    exact hoperands ▸ readLine_operands i.mnemonic_plain (stripped_joinOperands hplain)

theorem readInstr_listing {p : Ctrl2Profile} {i : Instr} (h : i.wf p = true) (acq : Option Acq) :
    readInstr p acq i.mnemonic.toList ((i.keywords p).map String.toList) = some i := by
  cases i with
  | setctrl2 fs bdu ien drdy sim align =>
    cases p with
    | palign => simp [readInstr, Instr.mnemonic, Instr.keywords, readAlignOperand]
    | p12 | p16 =>
      have halign : align = .r12 := by simpa [Instr.wf, Ctrl2Profile.admits] using h
      simp [readInstr, Instr.mnemonic, Instr.keywords, readAlignOperand, halign]
  | _ => simp [readInstr, Instr.mnemonic, Instr.keywords]

/-- Settles O22: the line is read as it was made (`readLine_listing`), and its parts name the operation. -/
theorem assembleOfListing : Obligations.AssembleOfListing := by
  intro p i hwf
  have hword : i.mnemonic.toList ≠ ".word".toList := by cases i <;> simp [Instr.mnemonic]
  simp only [assembleLine, readLine_listing, readInstr_listing hwf, if_neg hword, Option.map_some]

end Sys2Proof
end

section
/-!
PROOFS. Transactions (30_encoding.md R81, 20_memory.md R46 to R50): the flags of each address byte.
-/

namespace Sys2Proof.Machine

/-- The two flags of an address byte are its top bits, the read flag first (R80). -/
theorem addrByte_flags (a : Addr) (rd inc : BitVec 1) :
    (addrByte a rd inc).extractLsb' 6 2 = (rd ++ inc : BitVec (1 + 1)) := by
  have hbit {x : Byte} {n : Nat} {v : BitVec 1} (h : x.getLsbD n = v.getLsbD 0) : x.extractLsb' n 1 = v :=
    BitVec.eq_of_getLsbD_eq fun k hk => by
      obtain rfl : k = 0 := Nat.lt_one_iff.1 hk
      simpa using h
  have hrd := hbit (addrByte_rd a rd inc)
  have hinc := hbit (addrByte_inc a rd inc)
  exact extractLsb'_eq_append_iff.2 ⟨hrd, hinc⟩

/-- Settles O23: the calls are those of the transactions (`scriptCalls_eq_transactions`), and each shape has its flags
(`addrByte_flags`). -/
theorem operationsAreWholeTransactions : Obligations.OperationsAreWholeTransactions := by
  refine ⟨scriptCalls_eq_transactions, fun c i x _ => ?_⟩
  cases x with
  | write | read | burst | resetFilter =>
    simp only [Txn.addressByte, addrByte_flags]
    decide

end Sys2Proof.Machine
end

section
/-!
PROOFS. The codec functions of 40_codec_functions.md, read by fields. Each encoder's OR of shifted operands is a
concatenation of fields, so a byte is an encoding exactly when its fields hold the codes of the operands
(`encCtrl1_eq_iff`, `encCtrl2_eq_iff`, `encCtrl3_eq_iff`). The laws on options (R96), the inverse encoders (R97) and the
unused bits (R98) are read off these fields.
-/

namespace Sys2Proof

/-! ### Bytes by parts -/

theorem extractLsb'_one_eq_zero_iff {w : Nat} {x : BitVec w} {k : Nat} :
    x.extractLsb' k 1 = 0#1 ↔ x.getLsbD k = false := by
  rw [BitVec.getLsbD_eq_extractLsb']
  generalize x.extractLsb' k 1 = v
  revert v
  decide

theorem extractLsb'_one_eq_one_iff {w : Nat} {x : BitVec w} {k : Nat} :
    x.extractLsb' k 1 = 1#1 ↔ x.getLsbD k = true := by
  simp [BitVec.getLsbD_eq_extractLsb']

theorem and_eq_zero_iff_getLsbD {w : Nat} {x m : BitVec w} :
    x &&& m = 0#w ↔ ∀ k, m.getLsbD k = true → x.getLsbD k = false := by
  constructor
  · intro h k hm
    have hk := congrArg (fun y => y.getLsbD k) h
    simpa [hm] using hk
  · intro h
    apply BitVec.eq_of_getLsbD_eq
    intro k _
    cases hm : m.getLsbD k <;> simp [hm, h k]

theorem and_not_eq_self_of_and_eq_zero {w : Nat} {x m : BitVec w} (h : x &&& m = 0#w) : x &&& ~~~m = x := by
  calc x &&& ~~~m = (x &&& m) ||| (x &&& ~~~m) := by rw [h, BitVec.zero_or]
    _ = x := by rw [← BitVec.and_or_distrib_left, BitVec.or_not_self, BitVec.and_allOnes]

/-- A shifted operand stands above every mask that lies below the shift. -/
theorem shiftLeft_and_eq_zero {w s : Nat} (x : BitVec w) {m : BitVec w} (h : m.toNat < 2 ^ s) :
    x <<< s &&& m = 0#w := by
  rw [and_eq_zero_iff_getLsbD]
  intro k hm
  have hk : k < s := by
    by_contra hge
    have hlt := h.trans_le (Nat.pow_le_pow_right Nat.two_pos (not_lt.1 hge))
    rw [← BitVec.testBit_toNat, Nat.testBit_lt_two_pow hlt] at hm
    cases hm
  simp [hk]

/-- A byte from its eight bits, bit 7 first. -/
def byteOfBits (b7 b6 b5 b4 b3 b2 b1 b0 : BitVec 1) : Byte :=
  (b7 ++ b6 ++ b5 ++ b4 ++ b3 ++ b2 ++ b1 ++ b0 : BitVec (1 + 1 + 1 + 1 + 1 + 1 + 1 + 1))

theorem byteOfBits_eq_iff {b7 b6 b5 b4 b3 b2 b1 b0 : BitVec 1} {v : Byte} :
    byteOfBits b7 b6 b5 b4 b3 b2 b1 b0 = v ↔
      v.extractLsb' 7 1 = b7 ∧ v.extractLsb' 6 1 = b6 ∧ v.extractLsb' 5 1 = b5 ∧ v.extractLsb' 4 1 = b4 ∧
      v.extractLsb' 3 1 = b3 ∧ v.extractLsb' 2 1 = b2 ∧ v.extractLsb' 1 1 = b1 ∧ v.extractLsb' 0 1 = b0 := by
  rw [byteOfBits, eq_comm, eq_append_iff (m := 1 + 1 + 1 + 1 + 1 + 1 + 1) (n := 1)]
  simp only [extractLsb'_eq_append_iff]
  tauto

theorem byteOfBits_or (a7 a6 a5 a4 a3 a2 a1 a0 b7 b6 b5 b4 b3 b2 b1 b0 : BitVec 1) :
    byteOfBits a7 a6 a5 a4 a3 a2 a1 a0 ||| byteOfBits b7 b6 b5 b4 b3 b2 b1 b0 =
      byteOfBits (a7 ||| b7) (a6 ||| b6) (a5 ||| b5) (a4 ||| b4) (a3 ||| b3) (a2 ||| b2) (a1 ||| b1) (a0 ||| b0) := by
  simp only [byteOfBits, ← BitVec.or_append]

theorem byteOfBits_and (a7 a6 a5 a4 a3 a2 a1 a0 b7 b6 b5 b4 b3 b2 b1 b0 : BitVec 1) :
    byteOfBits a7 a6 a5 a4 a3 a2 a1 a0 &&& byteOfBits b7 b6 b5 b4 b3 b2 b1 b0 =
      byteOfBits (a7 &&& b7) (a6 &&& b6) (a5 &&& b5) (a4 &&& b4) (a3 &&& b3) (a2 &&& b2) (a1 &&& b1) (a0 &&& b0) := by
  simp only [byteOfBits, ← BitVec.and_append]

/-- One operand of two tuples whose non-zero operands are disjoint (R96 (c)), in any enumeration whose member `zero` has
code 0. -/
theorem code_or_of_disjoint {α : Type} {n : Nat} (code : α → BitVec n) {zero a b u : α}
    (h : (a = zero ∧ u = b) ∨ (b = zero ∧ u = a)) (hzero : code zero = 0#n) : code a ||| code b = code u := by
  rcases h with ⟨rfl, rfl⟩ | ⟨rfl, rfl⟩
  · rw [hzero, BitVec.zero_or]
  · rw [hzero, BitVec.or_zero]

/-! ### The address byte (R87) -/

theorem addrByte_eq_append (a : Addr) (rd inc : BitVec 1) : addrByte a rd inc = (rd ++ inc ++ a : BitVec (1 + 1 + 6)) :=
  eq_append_iff.2 ⟨Machine.addrByte_flags a rd inc, Machine.addrByte_address a rd inc⟩

/-- The address byte keeps its three parts. -/
theorem addrByte_eq_iff {a : Addr} {rd inc : BitVec 1} {v : Byte} :
    addrByte a rd inc = v ↔ (v.extractLsb' 7 1 = rd ∧ v.extractLsb' 6 1 = inc) ∧ v.extractLsb' 0 6 = a := by
  rw [addrByte_eq_append, eq_comm, eq_append_iff (m := 1 + 1) (n := 6), extractLsb'_eq_append_iff]

/-- Settles O1: the parts are recovered from the byte (`addrByte_eq_iff`), so equal bytes have equal parts. -/
theorem addrByteIsFlagsThenAddress : Obligations.AddrByteIsFlagsThenAddress := by
  refine ⟨fun a rd inc => ?_, fun a => ?_, fun a a' rd rd' inc inc' h => ?_⟩
  · obtain ⟨⟨hrd, hinc⟩, ha⟩ := addrByte_eq_iff.1 (rfl : addrByte a rd inc = _)
    exact ⟨rfl, addrByte_eq_append a rd inc, ha, hrd, hinc⟩
  · simp [addrByte]
  · obtain ⟨⟨hrd, hinc⟩, ha⟩ := addrByte_eq_iff.1 h
    obtain ⟨⟨hrd', hinc'⟩, ha'⟩ := addrByte_eq_iff.1 (rfl : addrByte a' rd' inc' = _)
    exact ⟨ha.symm.trans ha', hrd.symm.trans hrd', hinc.symm.trans hinc'⟩

/-! ### Control register 1 (R90, R96) -/

theorem encCtrl1_eq_append (p : Pwr) (r : Rate) :
    encCtrl1 p r = (0#1 ++ p.code ++ r.code ++ 0#1 ++ 7#3 : BitVec (1 + 1 + 2 + 1 + 3)) := by
  rw [← BitVec.setWidth_eq (0#1 ++ p.code ++ r.code ++ 0#1 ++ 7#3)]
  simp only [encCtrl1, BitVec.setWidth_append_eq_shiftLeft_setWidth_or, BitVec.shiftLeft_or_distrib,
    ← BitVec.shiftLeft_add]
  simp [BitVec.or_comm, BitVec.or_assoc]

theorem encCtrl1_eq_iff {p : Pwr} {r : Rate} {v : Byte} :
    encCtrl1 p r = v ↔ (v.extractLsb' 7 1 = 0#1 ∧ v.extractLsb' 3 1 = 0#1 ∧ v.extractLsb' 0 3 = 7#3) ∧
      v.extractLsb' 6 1 = p.code ∧ v.extractLsb' 4 2 = r.code := by
  rw [encCtrl1_eq_append, eq_comm, eq_append_iff (m := 1 + 1 + 2 + 1) (n := 3)]
  simp only [extractLsb'_eq_append_iff]
  tauto

/-- Settles O2: the byte is its fields (`encCtrl1_eq_append`). -/
theorem ctrl1ByteByFields : Obligations.Ctrl1ByteByFields :=
  ⟨fun p r => ⟨rfl, encCtrl1_eq_append p r⟩, by decide⟩

/-- Settles O6: the options stand above the base byte, and the OR of two bytes is taken field by field, each field being
that of one of the two. -/
theorem ctrl1OptionsCompose : Obligations.Ctrl1OptionsCompose := by
  refine ⟨by decide, fun p r => ?_, fun p p' pu r r' ru hp hr => ?_⟩
  · have hoptions : encCtrl1 p r = 0x07#8 ||| ((p.code.setWidth 8 <<< 6) ||| (r.code.setWidth 8 <<< 4)) :=
      BitVec.or_assoc ..
    have hdisjoint : ((p.code.setWidth 8 <<< 6) ||| (r.code.setWidth 8 <<< 4)) &&& 0x07#8 = 0#8 := by
      rw [BitVec.and_or_distrib_right, shiftLeft_and_eq_zero _ (by decide), shiftLeft_and_eq_zero _ (by decide),
        BitVec.or_zero]
    constructor
    · rw [hoptions, BitVec.and_or_distrib_right, hdisjoint, BitVec.or_zero, BitVec.and_self]
    · rw [hoptions, BitVec.and_or_distrib_right, and_not_eq_self_of_and_eq_zero hdisjoint]
      exact BitVec.zero_or
  · obtain ⟨⟨h7, h3, h0⟩, hpwr, hrate⟩ := encCtrl1_eq_iff.1 (rfl : encCtrl1 p r = _)
    obtain ⟨⟨h7', h3', h0'⟩, hpwr', hrate'⟩ := encCtrl1_eq_iff.1 (rfl : encCtrl1 p' r' = _)
    refine (encCtrl1_eq_iff.2 ?_).symm
    simp only [BitVec.extractLsb'_or, h7, h3, h0, hpwr, hrate, h7', h3', h0', hpwr', hrate', BitVec.or_self,
      code_or_of_disjoint Pwr.code hp rfl, code_or_of_disjoint Rate.code hr rfl, and_self]

/-! ### The alignment bit of control register 2 (R93) -/

/-- What the bit at `ALIGN_BIT` of control register 2 holds. -/
def Ctrl2Profile.alignField (p : Ctrl2Profile) (align : Align) : BitVec 1 :=
  match p with
  | .p12 => 0#1
  | .p16 => 1#1
  | .palign => align.code

/-- What bit `k` of a byte holds that has `x` at `ALIGN_BIT` and 0 elsewhere. -/
def AlignBit.place (b : AlignBit) (x : BitVec 1) (k : Nat) : BitVec 1 := if k = b.position then x else 0#1

theorem base2_eq (c : Config) (align : Align) :
    base2 c align = (c.profile.alignField align).setWidth 8 <<< c.alignBit.position := by
  unfold base2 Ctrl2Profile.alignField
  cases c.profile with
  | p12 => simp
  | p16 | palign => rfl

theorem shiftLeft_position_eq (b : AlignBit) (x : BitVec 1) :
    x.setWidth 8 <<< b.position = byteOfBits 0#1 0#1 (b.place x 5) (b.place x 4) 0#1 0#1 0#1 (b.place x 0) := by
  revert x
  cases b <;> decide

/-- The bits of R98 for control register 2. -/
theorem getLsbD_unusedCtrl2 {b : AlignBit} {k : Nat} :
    (unusedCtrl2 b).getLsbD k = true ↔ (k = 5 ∨ k = 4 ∨ k = 0) ∧ k ≠ b.position := by
  by_cases hk : k < 8
  · revert k
    cases b <;> decide
  · have hge : (unusedCtrl2 b).getLsbD k = false := BitVec.getLsbD_of_ge _ _ (by omega)
    have hfar : ¬ (k = 5 ∨ k = 4 ∨ k = 0) := by omega
    simp [hge, hfar]

theorem and_unusedCtrl2_eq_zero_iff {b : AlignBit} {v : Byte} :
    v &&& unusedCtrl2 b = 0#8 ↔ ∀ k, (k = 5 ∨ k = 4 ∨ k = 0) → k ≠ b.position → v.getLsbD k = false := by
  simp only [and_eq_zero_iff_getLsbD, getLsbD_unusedCtrl2, and_imp]

/-- The three bits outside the options hold a placed bit exactly when the unused ones are 0. -/
theorem eq_place_iff {b : AlignBit} {x : BitVec 1} {v : Byte} :
    (v.extractLsb' 5 1 = b.place x 5 ∧ v.extractLsb' 4 1 = b.place x 4 ∧ v.extractLsb' 0 1 = b.place x 0) ↔
      v &&& unusedCtrl2 b = 0#8 ∧ v.extractLsb' b.position 1 = x := by
  rw [and_unusedCtrl2_eq_zero_iff]
  cases b with
  | bit0 | bit4 | bit5 => grind [AlignBit.place, AlignBit.position, extractLsb'_one_eq_zero_iff]

/-! ### Control register 2 (R92, R93, R96) -/

/-- The options of control register 2 over its base byte (R92). -/
def ctrl2Options (fs : Fs) (bdu : Bdu) (ien : Ien) (drdy : Drdy) (sim : Sim) : Byte :=
  (fs.code.setWidth 8 <<< 7) ||| (bdu.code.setWidth 8 <<< 6) ||| (ien.code.setWidth 8 <<< 3) |||
    (drdy.code.setWidth 8 <<< 2) ||| (sim.code.setWidth 8 <<< 1)

theorem encCtrl2_eq_or (c : Config) (fs : Fs) (bdu : Bdu) (ien : Ien) (drdy : Drdy) (sim : Sim) (align : Align) :
    encCtrl2 c fs bdu ien drdy sim align = base2 c align ||| ctrl2Options fs bdu ien drdy sim := by
  simp only [encCtrl2, ctrl2Options, BitVec.or_assoc]

theorem ctrl2Options_eq (fs : Fs) (bdu : Bdu) (ien : Ien) (drdy : Drdy) (sim : Sim) :
    ctrl2Options fs bdu ien drdy sim = byteOfBits fs.code bdu.code 0#1 0#1 ien.code drdy.code sim.code 0#1 := by
  rw [byteOfBits,
    ← BitVec.setWidth_eq (fs.code ++ bdu.code ++ 0#1 ++ 0#1 ++ ien.code ++ drdy.code ++ sim.code ++ 0#1)]
  simp only [ctrl2Options, BitVec.setWidth_append_eq_shiftLeft_setWidth_or, BitVec.shiftLeft_or_distrib,
    ← BitVec.shiftLeft_add]
  simp

theorem encCtrl2_eq (c : Config) (fs : Fs) (bdu : Bdu) (ien : Ien) (drdy : Drdy) (sim : Sim) (align : Align) :
    encCtrl2 c fs bdu ien drdy sim align =
      byteOfBits fs.code bdu.code (c.alignBit.place (c.profile.alignField align) 5)
        (c.alignBit.place (c.profile.alignField align) 4) ien.code drdy.code sim.code
        (c.alignBit.place (c.profile.alignField align) 0) := by
  rw [encCtrl2_eq_or, base2_eq, shiftLeft_position_eq, ctrl2Options_eq, byteOfBits_or]
  simp only [BitVec.or_zero, BitVec.zero_or]

/-- A byte is an encoding for control register 2 exactly when its unused bits are 0, the bit at `ALIGN_BIT` is the
profile's, and the five other bits are the operands. -/
theorem encCtrl2_eq_iff {c : Config} {fs : Fs} {bdu : Bdu} {ien : Ien} {drdy : Drdy} {sim : Sim} {align : Align}
    {v : Byte} :
    encCtrl2 c fs bdu ien drdy sim align = v ↔
      (v &&& unusedCtrl2 c.alignBit = 0#8 ∧ v.extractLsb' c.alignBit.position 1 = c.profile.alignField align) ∧
      v.extractLsb' 7 1 = fs.code ∧ v.extractLsb' 6 1 = bdu.code ∧ v.extractLsb' 3 1 = ien.code ∧
      v.extractLsb' 2 1 = drdy.code ∧ v.extractLsb' 1 1 = sim.code := by
  rw [encCtrl2_eq, byteOfBits_eq_iff, ← eq_place_iff]
  tauto

/-- Settles O3: the fields of the byte are read off it (`encCtrl2_eq_iff`). -/
theorem ctrl2ByteByProfile : Obligations.Ctrl2ByteByProfile := by
  refine ⟨fun c fs bdu ien drdy sim align => ?_, fun c align => ?_⟩
  · obtain ⟨⟨-, halign⟩, hfs, hbdu, hien, hdrdy, hsim⟩ :=
      encCtrl2_eq_iff.1 (rfl : encCtrl2 c fs bdu ien drdy sim align = _)
    exact ⟨rfl, hfs, hbdu, hien, hdrdy, hsim, halign⟩
  · refine ⟨fun h => ?_, fun h => ?_, fun h => ?_⟩ <;> rw [base2, h]

/-- Settles O4: of the build, the byte depends on `ALIGN_BIT` and on what stands there only (`encCtrl2_eq`). -/
theorem palignContainsOtherProfiles : Obligations.PalignContainsOtherProfiles := by
  intro c c' fs bdu ien drdy sim align hc hbit
  have hsame (a : Align) (h : c'.profile.alignField align = c.profile.alignField a) :
      encCtrl2 c' fs bdu ien drdy sim align = encCtrl2 c fs bdu ien drdy sim a := by
    rw [encCtrl2_eq, encCtrl2_eq, hbit, h]
  exact ⟨fun hc' => hsame .r12 (by rw [hc, hc']; rfl), fun hc' => hsame .l16 (by rw [hc, hc']; rfl)⟩

theorem ctrl2Options_and_base2 (c : Config) (fs : Fs) (bdu : Bdu) (ien : Ien) (drdy : Drdy) (sim : Sim)
    (align : Align) :
    ctrl2Options fs bdu ien drdy sim &&& base2 c align = 0x00#8 := by
  rw [ctrl2Options_eq, base2_eq, shiftLeft_position_eq, byteOfBits_and]
  simp only [BitVec.and_zero, BitVec.zero_and]
  rfl

/-- The alignment operand of two tuples with disjoint operands, in the field that the profile gives it. -/
theorem alignField_or_of_disjoint (p : Ctrl2Profile) {align align' au : Align}
    (h : (align = .r12 ∧ au = align') ∨ (align' = .r12 ∧ au = align)) :
    p.alignField align ||| p.alignField align' = p.alignField au := by
  cases p with
  | p12 | p16 => exact BitVec.or_self
  | palign => exact code_or_of_disjoint Align.code h rfl

/-- The base byte of R96 is that of the zero tuple: every other base byte of the build contains it (b). -/
theorem base2_and_base2_r12 (c : Config) (align : Align) : base2 c align &&& base2 c .r12 = base2 c .r12 := by
  cases hc : c.profile with
  | p12 | p16 => simp [base2, hc]
  | palign => simp [base2, hc, show Align.r12.code = 0#1 from rfl]

/-- Outside that base byte stands the alignment operand of the build (R96 (d)). -/
theorem base2_and_not_base2_r12 {c : Config} {align : Align} (h : c.profile.admits align = true) :
    base2 c align &&& ~~~(base2 c .r12) = align.code.setWidth 8 <<< c.alignBit.position := by
  cases hc : c.profile with
  | p12 | p16 =>
    have hzero : align.code = 0#1 := by simpa [hc] using admits_iff.1 h
    simp [base2, hc, hzero]
  | palign =>
    have hbase : base2 c .r12 = 0x00#8 := by simp [base2, hc, Align.code]
    rw [hbase, and_not_eq_self_of_and_eq_zero BitVec.and_zero, base2, hc]

/-- Settles O7: the options avoid the base byte (`ctrl2Options_and_base2`), which is contained in every byte and leaves
outside it the alignment operand; the OR of two bytes is taken field by field. -/
theorem ctrl2OptionsCompose : Obligations.Ctrl2OptionsCompose := by
  refine ⟨fun c => ?_, fun c fs bdu ien drdy sim align => ⟨?_, fun hadmits => ?_⟩, ?_⟩
  · rw [encCtrl2_eq_or]
    exact BitVec.or_zero
  · rw [encCtrl2_eq_or, BitVec.and_or_distrib_right, base2_and_base2_r12, ctrl2Options_and_base2, BitVec.or_zero]
  · rw [encCtrl2_eq_or, BitVec.and_or_distrib_right, base2_and_not_base2_r12 hadmits,
      and_not_eq_self_of_and_eq_zero (ctrl2Options_and_base2 ..), BitVec.or_comm]
    rfl
  · intro c fs fs' fu bdu bdu' bu ien ien' iu drdy drdy' du sim sim' su align align' au hfs hbdu hien hdrdy hsim halign
    obtain ⟨⟨hu, ha⟩, h7, h6, h3, h2, h1⟩ := encCtrl2_eq_iff.1 (rfl : encCtrl2 c fs bdu ien drdy sim align = _)
    obtain ⟨⟨hu', ha'⟩, h7', h6', h3', h2', h1'⟩ :=
      encCtrl2_eq_iff.1 (rfl : encCtrl2 c fs' bdu' ien' drdy' sim' align' = _)
    refine (encCtrl2_eq_iff.2 ?_).symm
    simp only [BitVec.and_or_distrib_right, BitVec.extractLsb'_or, hu, ha, h7, h6, h3, h2, h1, hu', ha', h7', h6', h3',
      h2', h1', BitVec.or_self, alignField_or_of_disjoint _ halign, code_or_of_disjoint Fs.code hfs rfl,
      code_or_of_disjoint Bdu.code hbdu rfl, code_or_of_disjoint Ien.code hien rfl,
      code_or_of_disjoint Drdy.code hdrdy rfl, code_or_of_disjoint Sim.code hsim rfl, and_self]

/-! ### Control register 3 (R94, R96) -/

theorem encCtrl3_eq_append (eck : Eck) (hpdd : Hpdd) (hpff : Hpff) (fds : Fds) (cfs : Cfs) :
    encCtrl3 eck hpdd hpff fds cfs =
      (eck.code ++ hpdd.code ++ hpff.code ++ fds.code ++ 0#2 ++ cfs.code : BitVec (1 + 1 + 1 + 1 + 2 + 2)) := by
  rw [← BitVec.setWidth_eq (eck.code ++ hpdd.code ++ hpff.code ++ fds.code ++ 0#2 ++ cfs.code)]
  simp only [encCtrl3, BitVec.setWidth_append_eq_shiftLeft_setWidth_or, BitVec.shiftLeft_or_distrib,
    ← BitVec.shiftLeft_add]
  simp

theorem encCtrl3_eq_iff {eck : Eck} {hpdd : Hpdd} {hpff : Hpff} {fds : Fds} {cfs : Cfs} {v : Byte} :
    encCtrl3 eck hpdd hpff fds cfs = v ↔ v.extractLsb' 2 2 = 0#2 ∧
      v.extractLsb' 7 1 = eck.code ∧ v.extractLsb' 6 1 = hpdd.code ∧ v.extractLsb' 5 1 = hpff.code ∧
      v.extractLsb' 4 1 = fds.code ∧ v.extractLsb' 0 2 = cfs.code := by
  rw [encCtrl3_eq_append, eq_comm, eq_append_iff (m := 1 + 1 + 1 + 1 + 2) (n := 2)]
  simp only [extractLsb'_eq_append_iff]
  tauto

/-- Settles O5: the byte is its fields (`encCtrl3_eq_append`). -/
theorem ctrl3ByteByFields : Obligations.Ctrl3ByteByFields :=
  fun eck hpdd hpff fds cfs => ⟨rfl, encCtrl3_eq_append eck hpdd hpff fds cfs⟩

/-- Settles O8: the OR of two bytes is taken field by field, and each field is that of one of the two bytes. -/
theorem ctrl3OptionsCompose : Obligations.Ctrl3OptionsCompose := by
  refine ⟨by decide, ?_⟩
  intro eck eck' eu hpdd hpdd' du hpff hpff' hu fds fds' fu cfs cfs' cu heck hdd hff hfds hcfs
  obtain ⟨h2, h7, h6, h5, h4, h0⟩ := encCtrl3_eq_iff.1 (rfl : encCtrl3 eck hpdd hpff fds cfs = _)
  obtain ⟨h2', h7', h6', h5', h4', h0'⟩ := encCtrl3_eq_iff.1 (rfl : encCtrl3 eck' hpdd' hpff' fds' cfs' = _)
  refine (encCtrl3_eq_iff.2 ?_).symm
  simp only [BitVec.extractLsb'_or, h2, h7, h6, h5, h4, h0, h2', h7', h6', h5', h4', h0', BitVec.or_self,
    code_or_of_disjoint Eck.code heck rfl, code_or_of_disjoint Hpdd.code hdd rfl,
    code_or_of_disjoint Hpff.code hff rfl, code_or_of_disjoint Fds.code hfds rfl,
    code_or_of_disjoint Cfs.code hcfs rfl, and_self]

/-! ### The inverse encoders (R97) and the unused bits (R98) -/

/-- The decoder answers a tuple exactly on its encoding: the fixed fields are the domain, the others the answer. -/
theorem decCtrl1_eq_some_iff {p : Pwr} {r : Rate} {v : Byte} : decCtrl1 v = some (p, r) ↔ encCtrl1 p r = v := by
  rw [encCtrl1_eq_iff]
  simp [decCtrl1]

theorem decCtrl3_eq_some_iff {eck : Eck} {hpdd : Hpdd} {hpff : Hpff} {fds : Fds} {cfs : Cfs} {v : Byte} :
    decCtrl3 v = some (eck, hpdd, hpff, fds, cfs) ↔ encCtrl3 eck hpdd hpff fds cfs = v := by
  rw [encCtrl3_eq_iff]
  simp [decCtrl3]

theorem ctrl2Domain_iff {c : Config} {v : Byte} :
    ctrl2Domain c v = true ↔ v &&& unusedCtrl2 c.alignBit = 0#8 ∧
      (c.profile = .p12 → v.getLsbD c.alignBit.position = false) ∧
      (c.profile = .p16 → v.getLsbD c.alignBit.position = true) := by
  unfold ctrl2Domain
  cases c.profile <;> simp

/-- The same for control register 2, for the tuples that the build admits; notes/assumptions/9.md. -/
theorem decCtrl2_eq_some_iff {c : Config} {fs : Fs} {bdu : Bdu} {ien : Ien} {drdy : Drdy} {sim : Sim} {align : Align}
    {v : Byte} :
    decCtrl2 c v = some (fs, bdu, ien, drdy, sim, align) ↔
      c.profile.admits align = true ∧ encCtrl2 c fs bdu ien drdy sim align = v := by
  rw [encCtrl2_eq_iff]
  simp only [decCtrl2, ctrl2Domain_iff, Option.ite_none_right_eq_some, Option.some.injEq, Prod.mk.injEq,
    Fs.ofCode_eq_iff, Bdu.ofCode_eq_iff, Ien.ofCode_eq_iff, Drdy.ofCode_eq_iff, Sim.ofCode_eq_iff]
  cases c.profile with
  | p12 | p16 =>
    have hr12 : .r12 = align ↔ align.code = 0#1 := by cases align <;> decide
    simp only [Ctrl2Profile.alignField, admits_iff, hr12, extractLsb'_one_eq_zero_iff, extractLsb'_one_eq_one_iff]
    tauto
  | palign =>
    simp only [Ctrl2Profile.alignField, Ctrl2Profile.admits, Align.ofCode_eq_iff]
    tauto

/-- Settles O9: a decoder answers an operand tuple exactly on the tuple's encoding (`decCtrl1_eq_some_iff`,
`decCtrl2_eq_some_iff`, `decCtrl3_eq_some_iff`). -/
theorem controlDecodersInvertEncoders : Obligations.ControlDecodersInvertEncoders := by
  refine ⟨fun _ _ => decCtrl1_eq_some_iff.2 rfl, fun _ _ _ => decCtrl1_eq_some_iff.1, fun v => ?_,
    fun _ _ _ _ _ _ _ h => decCtrl2_eq_some_iff.2 ⟨h, rfl⟩, fun _ _ _ _ _ _ _ _ h => (decCtrl2_eq_some_iff.1 h).2,
    fun c v => ?_, fun _ _ _ _ _ => decCtrl3_eq_some_iff.2 rfl, fun _ _ _ _ _ _ => decCtrl3_eq_some_iff.1,
    fun v => ?_⟩
  · simp [decCtrl1]
  · simp [decCtrl2, ctrl2Domain_iff, and_unusedCtrl2_eq_zero_iff]
  · simp [decCtrl3]

/-- Settles O10: the masks of registers 1 and 3 act on each field; the unused bits of register 2 are in
`encCtrl2_eq_iff`. -/
theorem encodersNeverSetUnusedBits : Obligations.EncodersNeverSetUnusedBits := by
  refine ⟨fun p r => ?_, fun c fs bdu ien drdy sim align => ?_, fun eck hpdd hpff fds cfs => ?_⟩
  · calc
      encCtrl1 p r &&& 0x8F#8 = (0#1 ++ p.code ++ r.code ++ 0#1 ++ 7#3 : BitVec (1 + 1 + 2 + 1 + 3)) &&&
          (1#1 ++ 0#1 ++ 0#2 ++ 1#1 ++ 7#3 : BitVec (1 + 1 + 2 + 1 + 3)) := by rw [encCtrl1_eq_append]; rfl
      _ = 0x07#8 := by simp only [BitVec.and_append, BitVec.and_zero]; rfl
  · obtain ⟨⟨hunused, -⟩, -⟩ := encCtrl2_eq_iff.1 (rfl : encCtrl2 c fs bdu ien drdy sim align = _)
    exact and_unusedCtrl2_eq_zero_iff.1 hunused
  · calc
      encCtrl3 eck hpdd hpff fds cfs &&& 0x0C#8 =
          (eck.code ++ hpdd.code ++ hpff.code ++ fds.code ++ 0#2 ++ cfs.code : BitVec (1 + 1 + 1 + 1 + 2 + 2)) &&&
          (0#1 ++ 0#1 ++ 0#1 ++ 0#1 ++ 3#2 ++ 0#2 : BitVec (1 + 1 + 1 + 1 + 2 + 2)) := by rw [encCtrl3_eq_append]; rfl
      _ = 0x00#8 := by simp only [BitVec.and_append, BitVec.and_zero]; rfl

/-! ### The sample decoders (R99 to R103) -/

/-- Settles O11: each decoder gives this concatenation. -/
theorem bothDecodersGiveHighThenLow : Obligations.BothDecodersGiveHighThenLow :=
  fun h l => ⟨(Machine.decDiscrete_eq_append h l).trans (Machine.decBurst_eq_append l h).symm,
    Machine.decBurst_eq_append l h⟩

/-- Settles O12: a concatenation and its two halves determine each other. -/
theorem sampleRoundTrip : Obligations.SampleRoundTrip := by
  simp only [Obligations.SampleRoundTrip, Machine.decDiscrete_eq_append, Machine.decBurst_eq_append]
  refine ⟨fun v => ?_, fun h l => ?_⟩
  · have hparts := BitVec.extractLsb'_append_extractLsb' (w := 8) (len := 8) (x := v)
    exact ⟨hparts, hparts⟩
  · obtain ⟨hhigh, hlow⟩ := eq_append_iff.1 (rfl : h ++ l = h ++ l)
    exact ⟨hhigh, hlow, hhigh, hlow⟩

/-- The high byte counts 256 and carries the sign, the low byte is unsigned (R103). -/
theorem decDiscrete_toInt (h l : Byte) : (decDiscrete h l).toInt = 256 * h.toInt + l.toNat := by
  rw [Machine.decDiscrete_eq_append]
  exact BitVec.toInt_append

/-- Settles O13: the sample is negative as its high byte is (`decDiscrete_toInt`), since the low byte is below 256. -/
theorem sampleDenotesInteger : Obligations.SampleDenotesInteger := by
  refine ⟨fun h l => ?_, by decide⟩
  have hlow := l.isLt
  have hsign : h.getLsbD 7 = true ↔ h.toInt < 0 := by
    have hmsb : h.getLsbD 7 = h.msb := rfl
    rw [hmsb, BitVec.msb_eq_toInt, decide_eq_true_iff]
  have hmin := BitVec.le_toInt h
  have hmax := BitVec.toInt_lt (x := h)
  rw [decDiscrete_toInt, hsign]
  omega

/-! ### The identity comparison and the address bytes (R105, R89) -/

/-- Settles O14: the comparison has two outcomes, by whether the byte is the expected one. -/
theorem identityMatchesOneByte : Obligations.IdentityMatchesOneByte := by
  refine ⟨fun b => ?_, by decide⟩
  by_cases h : b = 0x3A#8 <;> simp [idMatch, idExpected, h]

/-- Settles O24: one row for each operation and axis. -/
theorem defaultAddressBytes : Obligations.DefaultAddressBytes := by
  intro i
  cases i with
  | rdh axis | rdl axis | rdd axis | rdb axis => cases axis <;> rfl
  | _ => rfl

end Sys2Proof
end

section
/-!
PROOFS. The configuration operations of 41_config.md R107 to R110. A word that names a setter can only be refused for its
reserved bits (`decode_eq_ite_of_readOperands`), and a script that sends two bytes and captures none writes nothing but
the sequencer, the line, and the events of its transaction (`exec_sends_two_bytes`).
-/

namespace Sys2Proof

/-! ### The words of the setters (30_encoding.md R75) -/

/-- Once `OP` and the operand fields name an operation, its reserved bits alone decide whether the word is accepted. -/
theorem decode_eq_ite_of_readOperands {p : Ctrl2Profile} {w : Word} {i : Instr} {P : Prop} [Decidable P]
    (hread : readOperands (opField w) w = some i)
    (hmask : w.extractLsb' 0 12 &&& reservedMask p (opField w) = 0#12 ↔ P) :
    decode p w = if P then .instr i else .refused .badReserved := by
  obtain ⟨hop, hoperands⟩ := readOperands_eq_some_iff.1 hread
  split
  next hP => exact decode_eq_instr_iff.2 ⟨hmask.2 hP, hop, hoperands⟩
  next hP => exact decode_of_reserved_bit (hop ▸ i.op_valid) (mt hmask.1 hP)

/-- The low bits of a word under a mask of its high ones. -/
theorem low_and_highMask_eq_zero_iff {m n k : Nat} (w : BitVec k) :
    w.extractLsb' 0 (m + n) &&& (BitVec.allOnes m ++ 0#n) = 0#(m + n) ↔ w.extractLsb' n m = 0#m := by
  rw [and_highMask_eq_zero_iff, extractLsb'_extractLsb' w (by omega), Nat.zero_add]

theorem and_reservedMask_setctrl1_iff {p : Ctrl2Profile} {w : Word} :
    w.extractLsb' 0 12 &&& reservedMask p 0x3#4 = 0#12 ↔ w.extractLsb' 3 9 = 0#9 :=
  low_and_highMask_eq_zero_iff (m := 9) (n := 3) w

theorem and_reservedMask_setctrl3_iff {p : Ctrl2Profile} {w : Word} :
    w.extractLsb' 0 12 &&& reservedMask p 0x5#4 = 0#12 ↔ w.extractLsb' 6 6 = 0#6 :=
  low_and_highMask_eq_zero_iff (m := 6) (n := 6) w

end Sys2Proof

namespace Sys2Proof.Machine

/-! ### The transaction of the setters (20_memory.md R47) -/

/-- An operation without a result whose script sends two bytes in one transaction and captures no answer: the whole state
after it. -/
theorem exec_sends_two_bytes {i : Instr} {s : State} {o1 o2 x0 x1 x2 x3 : Byte} {t : Transport} (hb : s.busy = false)
    (hscript : script s.cfg i = [.sel, .xfer o1, .xfer o2, .desel]) (hresult : returnsValue i = false)
    (hserve : s.transport.serve [.sel, .xfer o1, .xfer o2, .desel] = some ([x0, x1, x2, x3], t)) :
    exec i s = .next { s with
      seq := 0#3
      sel := false
      transport := t
      trace := s.trace ++ [.sel, .xfer o1 x1, .xfer o2 x2, .desel] } := by
  have hcalls : s.transport.serve ((script s.cfg i).map MicroOp.call) = some ([x0, x1, x2, x3], t) := by
    rwa [hscript]
  rw [exec_served hb hcalls, completed_of_no_result _ _ hresult, hscript, hb]
  rfl

/-- Settles O25: the word by its reserved bits 11:3 (`decode_eq_ite_of_readOperands`), the state by
`exec_sends_two_bytes`. -/
theorem setctrl1WritesItsByte : Obligations.Setctrl1WritesItsByte := by
  refine ⟨fun _ _ _ => rfl, fun p w hop => decode_eq_ite_of_readOperands (by rw [hop]; rfl) ?_,
    fun pwr rate s x0 x1 x2 x3 t hb hserve => exec_sends_two_bytes hb rfl rfl hserve⟩
  rw [hop, and_reservedMask_setctrl1_iff]

/-- Settles O26: as for `SETCTRL1`, with bit 0 among the reserved bits where the profile has no alignment operand
(`and_reservedMask_setctrl2_iff`). -/
theorem setctrl2WritesItsByte : Obligations.Setctrl2WritesItsByte := by
  refine ⟨fun _ _ _ _ _ _ _ => rfl, fun p w hop => decode_eq_ite_of_readOperands (by rw [hop]; rfl) ?_,
    fun fs bdu ien drdy sim align s x0 x1 x2 x3 t hb hserve => exec_sends_two_bytes hb rfl rfl hserve⟩
  rw [hop, and_reservedMask_setctrl2_iff, bits_11_6_eq_zero_iff]

/-- Settles O27: as for `SETCTRL1`, with the reserved bits 11:6. -/
theorem setctrl3WritesItsByte : Obligations.Setctrl3WritesItsByte := by
  refine ⟨fun _ _ _ _ _ _ => rfl, fun p w hop => decode_eq_ite_of_readOperands (by rw [hop]; rfl) ?_,
    fun eck hpdd hpff fds cfs s x0 x1 x2 x3 t hb hserve => exec_sends_two_bytes hb rfl rfl hserve⟩
  rw [hop, and_reservedMask_setctrl3_iff]

end Sys2Proof.Machine
end

section
/-!
PROOFS. The identity and status operations of 42_identity_status.md R111 to R114. An operation without operands has one
word (`decode_eq_ite_encode`); an operation that returns a value leaves, once its calls are served, the state that
`exec_returns` gives whole; and `RSTFILT` sends two bytes and captures none, as the setters do (`exec_sends_two_bytes`).
-/

namespace Sys2Proof

/-- Once `OP` and the operand fields name an operation of the build, its encoding is the only such word that is accepted;
every other one has a reserved bit set (30_encoding.md R75, R84). -/
theorem decode_eq_ite_encode {p : Ctrl2Profile} {w : Word} {i : Instr} (hwf : i.wf p = true)
    (hread : readOperands (opField w) w = some i) :
    decode p w = if w = encode i then .instr i else .refused .badReserved := by
  obtain ⟨hop, hoperands⟩ := readOperands_eq_some_iff.1 hread
  refine decode_eq_ite_of_readOperands hread ?_
  calc
    w.extractLsb' 0 12 &&& reservedMask p (opField w) = 0#12 ↔ decode p w = .instr i := by
      simp [decode_eq_instr_iff, hop, hoperands]
    _ ↔ w = encode i := by
      simp [decode_eq_instr_iff_encode, hwf, eq_comm]

/-- The result word of `BEGIN`, by the byte read (40_codec_functions.md R105). -/
theorem idResult_eq (b : Byte) : idResult b = if b = 0x3A#8 then 0x0001#16 else 0x0000#16 := by
  unfold idResult idMatch idExpected
  split <;> rfl

end Sys2Proof

namespace Sys2Proof.Machine

/-- An operation that returns a value, from an idle block whose transport serves its calls: the whole state after it. -/
theorem exec_returns {i : Instr} {s : State} {bs : List Byte} {t : Transport} {r : Word} (hb : s.busy = false)
    (hserve : s.transport.serve (scriptCalls s.cfg i) = some (bs, t)) (hresult : resultOfBytes i bs = some r) :
    exec i s = .next { s with
      seq := 0#3
      sel := false
      hb := (capture (script s.cfg i) bs (s.sel, s.hb, s.lb)).2.1
      lb := (capture (script s.cfg i) bs (s.sel, s.hb, s.lb)).2.2
      res := r
      resv := true
      transport := t
      trace := s.trace ++ eventsOf (scriptCalls s.cfg i) bs } := by
  have hlength : bs.length = (script s.cfg i).length := by
    simpa [scriptCalls] using serve_length hserve
  have hdone := completed_script (v := s.start) hlength t
  rw [exec_served hb hserve, hb]
  refine congrArg Host.Outcome.next (hdone.trans ?_)
  rw [hresult, Option.isSome_some, Bool.or_true]
  rfl

/-- Settles O28: the word by `decode_eq_ite_encode`, the state by `exec_returns`. -/
theorem getidReturnsRawIdentity : Obligations.GetidReturnsRawIdentity :=
  ⟨fun _ => rfl, fun _ _ hop => decode_eq_ite_encode (i := .getid) rfl (by rw [hop]; rfl),
    fun _ _ _ _ _ _ hb hserve => exec_returns (i := .getid) hb hserve rfl⟩

/-- Settles O29: as for `GETID`, with the comparison of the captured byte as the result (`idResult_eq`). -/
theorem beginReportsIdentityMatch : Obligations.BeginReportsIdentityMatch :=
  ⟨fun _ => rfl, fun _ _ hop => decode_eq_ite_encode (i := .beginCheck) rfl (by rw [hop]; rfl),
    fun _ _ _ b _ _ hb hserve => exec_returns (i := .beginCheck) hb hserve (congrArg some (idResult_eq b))⟩

/-- Settles O30: as for `GETID`, at the status register's address. -/
theorem rdstatusReturnsRawStatus : Obligations.RdstatusReturnsRawStatus :=
  ⟨fun _ => rfl, fun _ _ hop => decode_eq_ite_encode (i := .rdstatus) rfl (by rw [hop]; rfl),
    fun _ _ _ _ _ _ hb hserve => exec_returns (i := .rdstatus) hb hserve rfl⟩

/-- Settles O31: the access has the read flag set, but its script captures no answer (`exec_sends_two_bytes`). -/
theorem rstfiltKeepsReadFraming : Obligations.RstfiltKeepsReadFraming :=
  ⟨fun _ => rfl, fun _ _ hop => decode_eq_ite_encode (i := .rstfilt) rfl (by rw [hop]; rfl),
    fun _ _ _ _ _ _ hb hserve => exec_sends_two_bytes hb rfl rfl hserve⟩

end Sys2Proof.Machine
end

section
/-!
PROOFS. The sample acquisition operations of 43_sample.md R116 to R119. Their four values of `OP` share the reserved
bits 11:2 and the field `AXIS`, so that one lemma says what their words decode to (`decode_eq_ite_axis`). The state after
each of them is given whole by `exec_returns`; until it completes, `RES` and `RESV` are as before
(`exec_busy_keeps_result`).
-/

namespace Sys2Proof

/-! ### The words of the sample operations (30_encoding.md R70, R72, R75) -/

/-- The rows with an `AXIS` field are those with `OP` from 8 to `0xB`. -/
abbrev IsAxisRow (op : BitVec 4) : Prop := 0x8#4 ≤ op ∧ op < 0xC#4

theorem IsAxisRow.valid {op : BitVec 4} (h : IsAxisRow op) : ¬ (op = 0x0#4 ∨ 0xC#4 ≤ op) := by
  obtain ⟨hlow, hhigh⟩ := h
  bv_omega

theorem IsAxisRow.reservedMask_eq (p : Ctrl2Profile) :
    ∀ {op : BitVec 4}, IsAxisRow op → reservedMask p op = 0xFFC#12 := by
  cases p <;> decide

theorem and_reservedMask_axisRow_iff {p : Ctrl2Profile} {op : BitVec 4} {w : Word} (h : IsAxisRow op) :
    w.extractLsb' 0 12 &&& reservedMask p op = 0#12 ↔ w.extractLsb' 2 10 = 0#10 := by
  rw [h.reservedMask_eq p]
  exact low_and_highMask_eq_zero_iff (m := 10) (n := 2) w

/-- The three checks on a word of such a row, in the decoder's order: a reserved bit is refused before `AXIS = 3` is. -/
theorem decode_eq_ite_axis {p : Ctrl2Profile} {w : Word} {op : BitVec 4} {f : Axis → Instr} (hop : opField w = op)
    (hrow : IsAxisRow op) (hread : readOperands op w = (Axis.ofCode (w.extractLsb' 0 2)).map f) :
    decode p w = if w.extractLsb' 2 10 ≠ 0#10 then .refused .badReserved
      else match Axis.ofCode (w.extractLsb' 0 2) with
        | some a => .instr (f a)
        | none => .refused .badAxis := by
  subst hop
  have hmask := and_reservedMask_axisRow_iff (p := p) (w := w) hrow
  split
  next hreserved => exact decode_of_reserved_bit hrow.valid (mt hmask.1 hreserved)
  next hclear =>
    have hzero := hmask.2 (not_not.1 hclear)
    cases haxis : Axis.ofCode (w.extractLsb' 0 2) with
    | none => exact decode_of_axis_three hrow.valid hzero hrow.1 (Axis.ofCode_eq_none_iff.1 haxis)
    | some a =>
      rw [haxis] at hread
      exact decode_eq_instr_iff.2 ⟨hzero, readOperands_eq_some_iff.1 hread⟩

end Sys2Proof

namespace Sys2Proof.Machine

/-- An operation in progress has not touched the result of the one before it (10_state.md R21, R31). -/
theorem exec_busy_keeps_result {i : Instr} {s t : State} (h : exec i s = .next t) (hbusy : t.busy = true) :
    t.res = s.res ∧ t.resv = s.resv := by
  rcases exec_result h with ⟨hidle, -⟩ | ⟨-, hkept⟩
  · exact absurd (hbusy.symm.trans hidle) (by decide)
  · exact hkept

/-- Settles O32: the word by `decode_eq_ite_axis`, the state by `exec_returns`. -/
theorem rdhReturnsHighByte : Obligations.RdhReturnsHighByte :=
  ⟨fun _ _ => rfl, fun _ _ hop => decode_eq_ite_axis (f := .rdh) hop (by decide) rfl,
    fun a _ _ _ _ _ _ hb hserve => exec_returns (i := .rdh a) hb hserve rfl⟩

/-- Settles O33: as for `RDH`, with the byte captured as the low one. -/
theorem rdlReturnsLowByte : Obligations.RdlReturnsLowByte :=
  ⟨fun _ _ => rfl, fun _ _ hop => decode_eq_ite_axis (f := .rdl) hop (by decide) rfl,
    fun a _ _ _ _ _ _ hb hserve => exec_returns (i := .rdl a) hb hserve rfl⟩

/-- Settles O34: as for `RDH`, with both bytes captured, and `RES` untouched until then (`exec_busy_keeps_result`). -/
theorem rddReadsHighThenLow : Obligations.RddReadsHighThenLow :=
  ⟨fun _ _ => rfl, fun _ _ _ => exec_busy_keeps_result,
    fun _ _ hop => decode_eq_ite_axis (f := .rdd) hop (by decide) rfl,
    fun a _ _ _ _ _ _ _ _ _ _ hb hserve => exec_returns (i := .rdd a) hb hserve rfl⟩

/-- Settles O35: as for `RDD`, in the one transaction of the burst. -/
theorem rdbReadsBurst : Obligations.RdbReadsBurst :=
  ⟨fun _ _ => rfl, fun _ _ _ => exec_busy_keeps_result,
    fun _ _ hop => decode_eq_ite_axis (f := .rdb) hop (by decide) rfl,
    fun a _ _ _ _ _ _ _ hb hserve => exec_returns (i := .rdb a) hb hserve rfl⟩

end Sys2Proof.Machine
end

section
/-!
PROOFS. The exception and progress statements of 60_exceptions.md: an idle block that is offered nothing waits (R129), a
refused word changes the block's flags alone and is all that raises `ERR` (R121), and no step under the invariant stops
the machine (R121, R123). A busy block could stop only in `resume`, which the invariant gives a micro-step
(`resume_next_of_busyOk`).
-/

namespace Sys2Proof.Machine

/-! ### The idle block without an offer (R129) -/

theorem step_no_event_idle {s : State} (hb : s.busy = false) (hh : s.host = []) : step s = .next s := by
  simp [step, State.advanceBlock, hh, hb]

/-- The pass of the host is used up, as for a busy block (`step_pass_busy`), and there is no operation to go on with. -/
theorem step_pass_idle {s : State} {rest : List HostEvent} (hb : s.busy = false) (hh : s.host = .pass :: rest) :
    step s = .next (s.withHost rest) := by
  simp [step, State.advanceBlock, hh, hb]

/-- Settles O45: the two clauses are the branches of `step` for an idle block whose host has no event or passes. -/
theorem idleBlockWaits : Obligations.IdleBlockWaits :=
  fun _ hb => ⟨step_no_event_idle hb, fun _ => step_pass_idle hb⟩

/-! ### The refused word (R121) -/

/-- `ERR` rises only at the take of a word that the decoder refuses: `RESET` clears it, and no operation and no reading
of the host writes it. -/
theorem refused_offer_of_err_rises {s t : State} (h : step s = .next t) (hs : s.err = false) (ht : t.err = true) :
    ∃ (w : Word) (rest : List HostEvent) (c : RefuseCause), s.busy = false ∧ s.host = .offer w :: rest ∧
      decode s.cfg.profile w = .refused c := by
  have hkept (herr : t.err = s.err) : False := absurd (ht.symm.trans (herr.trans hs)) (by decide)
  cases step_shape h with
  | refuse w rest c hh b d _ => exact ⟨w, rest, c, b, hh, d⟩
  | reset _ _ e => rw [e] at ht; cases ht
  | read _ _ _ e => exact (hkept (by rw [e]; rfl)).elim
  | seesIdle _ _ _ e => exact (hkept (by rw [e]; rfl)).elim
  | take _ _ _ _ _ _ e => exact (hkept (exec_frame e).err).elim
  | resume _ _ _ _ e => exact (hkept (exec_frame e).err).elim
  | resumePass _ _ _ _ _ e => exact (hkept (exec_frame e).err).elim
  | pass _ _ _ e => exact (hkept (by rw [e])).elim
  | idle _ _ e => exact (hkept (by rw [e])).elim

/-- Settles O47: the effect is the branch of `step` for a refused word (`step_refuse`), the rise of `ERR` is
`refused_offer_of_err_rises`. -/
theorem refusedWordSetsOnlyTheFlags : Obligations.RefusedWordSetsOnlyTheFlags :=
  ⟨fun _ _ _ _ => step_refuse, fun _ _ => refused_offer_of_err_rises⟩

/-! ### Progress (R121, R123) -/

/-- A busy block that meets the invariant has a next micro-step, so its operation goes on (10_state.md R24, R30). -/
theorem resume_next_of_busyOk {s : State} (hok : s.busyOk) (hb : s.busy = true) : ∃ t, s.resume = .next t := by
  obtain ⟨i, hd, hseq, -⟩ := hok hb
  exact ⟨_, (resume_of_decode hd).trans (exec_busy hb hseq)⟩

/-- A busy block goes on with its operation, or answers the host's `RESET` or reading; neither stops it. -/
theorem step_next_of_busy {s : State} (hinv : s.Inv) (hb : s.busy = true) : ∃ t, step s = .next t := by
  have hwaits (hw : s.hostWaits = true) : ∃ t, step s = .next t :=
    step_busy hb hw ▸ resume_next_of_busyOk hinv.busy hb
  match hh : s.host with
  | [] => exact hwaits (by simp [State.hostWaits, hh])
  | .offer _ :: _ => exact hwaits (hostWaits_of_offer hh)
  | .awaitIdle :: _ => exact hwaits (by simp [State.hostWaits, hh])
  | .reset :: _ => exact ⟨_, step_reset hh⟩
  | .read _ :: _ => exact ⟨_, step_read hh⟩
  | .pass :: rest => exact step_pass_busy hb hh ▸ resume_next_of_busyOk (inv_withHost hinv rest).busy hb

/-- An idle block answers every event of the host; a word that it takes runs or is refused (`step_offer_idle_next`). -/
theorem step_next_of_idle {s : State} (hb : s.busy = false) : ∃ t, step s = .next t := by
  match hh : s.host with
  | [] => exact ⟨_, step_no_event_idle hb hh⟩
  | .offer _ :: _ =>
    obtain ⟨t, ht, -⟩ := step_offer_idle_next hb hh
    exact ⟨t, ht⟩
  | .awaitIdle :: _ => exact ⟨_, step_awaitIdle hb hh⟩
  | .reset :: _ => exact ⟨_, step_reset hh⟩
  | .read _ :: _ => exact ⟨_, step_read hh⟩
  | .pass :: _ => exact ⟨_, step_pass_idle hb hh⟩

/-- Settles O57: an idle block never stops (`step_next_of_idle`), a busy one has a micro-step under the invariant
(`step_next_of_busy`). -/
theorem nothingStopsTheMachine : Obligations.NothingStopsTheMachine := by
  intro s hinv
  cases hb : s.busy with
  | false => exact step_next_of_idle hb
  | true => exact step_next_of_busy hinv hb

end Sys2Proof.Machine
end

section
/-!
PROOFS. Reset and hazards (70_reset_and_hazards.md): no operation depends on what an earlier one left (R146), `RESET`
clears the block and abandons its operation (R135, R136), and a call that has not returned hangs the block (R149).
For R146 the effect of an operation is named before the block it runs in: a function of the operation, the
configuration and the transport (`exec_effect_stateless`).
-/

namespace Sys2Proof.Machine

/-! ### The effect of an operation on an idle block (R146) -/

/-- From `s` to `s'` an operation adds the events `new` and leaves the transport `t`; it `waits` for a call, or has
completed and written its result `r`. -/
structure State.EffectOf (s s' : State) (new : List Event) (t : Transport) (waits : Bool) (r : Option Word) :
    Prop where
  trace : s'.trace = s.trace ++ new
  transport : s'.transport = t
  busy : s'.busy = waits
  res : waits = false → s'.res = r.getD s.res
  resv : waits = false → s'.resv = (s.resv || r.isSome)

/-- An operation returns a word on its bytes exactly when it is one that returns a value (10_state.md R21). -/
theorem resultOfBytes_isSome {c : Config} {i : Instr} {bs : List Byte} (h : bs.length = (script c i).length) :
    (resultOfBytes i bs).isSome = returnsValue i := by
  obtain ⟨-, hresult⟩ := capture_script h (false, 0#8, 0#8)
  rw [← hresult, resultOf_isSome]

/-- A transport that serves the script lets the operation complete, its result a function of the bytes returned: the
capture registers are written before they are read. -/
theorem exec_effect_of_served {i : Instr} {s s' : State} {bs : List Byte} {t : Transport} (hb : s.busy = false)
    (hserve : s.transport.serve (scriptCalls s.cfg i) = some (bs, t)) (h : exec i s = .next s') :
    s.EffectOf s' (eventsOf (scriptCalls s.cfg i) bs) t false (resultOfBytes i bs) := by
  have hresult := completed_script (v := s.start) (serve_script_length hserve) t
  rw [exec_served hb hserve] at h
  cases h.symm.trans (congrArg Host.Outcome.next hresult)
  exact ⟨rfl, rfl, rfl, fun _ => rfl, fun _ => rfl⟩

/-- A transport that leaves the call of entry `m` waiting leaves the block busy after the entries before it. -/
theorem exec_effect_of_waiting {i : Instr} {s s' : State} {pre post : List MicroOp} {m : MicroOp} {bs : List Byte}
    {t1 t : Transport} (hb : s.busy = false) (hscript : script s.cfg i = pre ++ m :: post)
    (hserve : s.transport.serve (pre.map MicroOp.call) = some (bs, t1)) (hwait : t1.call m.call = (none, t))
    (h : exec i s = .next s') : s.EffectOf s' (eventsOf (pre.map MicroOp.call) bs) t true none := by
  rw [exec_idle hb, hscript, run_waits (s := s.start) hserve hwait] at h
  cases h
  exact ⟨rfl, rfl, rfl, nofun, nofun⟩

/-- R146: operation, configuration and transport determine one effect, which the operation has on every idle block. A
completed operation has made the calls of its script. -/
theorem exec_effect_stateless (i : Instr) (c : Config) (t : Transport) :
    ∃ (new : List Event) (t' : Transport) (waits : Bool) (r : Option Word),
      (waits = false → new.map Event.call = scriptCalls c i ∧ r.isSome = returnsValue i) ∧
      ∀ s s' : State, s.busy = false → s.cfg = c → s.transport = t → exec i s = .next s' →
        s.EffectOf s' new t' waits r := by
  rcases serve_cases (script c i) t with ⟨bs, t', hserve⟩ | ⟨pre, m, post, bs, t1, t', hscript, hserve, hwait⟩
  · have hlen := serve_script_length hserve
    refine ⟨eventsOf (scriptCalls c i) bs, t', false, resultOfBytes i bs,
      fun _ => ⟨eventsOf_call _ _ (serve_length hserve), resultOfBytes_isSome hlen⟩, ?_⟩
    rintro s s' hb rfl rfl h
    exact exec_effect_of_served hb hserve h
  · refine ⟨eventsOf (pre.map MicroOp.call) bs, t', true, none, nofun, ?_⟩
    rintro s s' hb rfl rfl h
    exact exec_effect_of_waiting hb hscript hserve hwait h

/-- The host reads the result that a completed operation has written (10_state.md R21). -/
theorem State.EffectOf.readRes_eq {s s' : State} {new : List Event} {t : Transport} {v : Word}
    (h : s.EffectOf s' new t false (some v)) : s'.readRes = some v ∧ s'.resv = true := by
  have hresv : s'.resv = true := (h.resv rfl).trans (Bool.or_true _)
  exact ⟨by rw [State.readRes, hresv, h.res rfl]; rfl, hresv⟩

/-- Settles O54: both blocks have the one effect that `exec_effect_stateless` names. -/
theorem operationsAreStateless : Obligations.OperationsAreStateless := by
  refine ⟨fun i s u s' u' hs hu hcfg htransport hexec hexec' => ?_, fun i s s' hs hexec hdone => ?_⟩
  · obtain ⟨new, t, waits, r, hcompleted, heffect⟩ := exec_effect_stateless i s.cfg s.transport
    have hfrom_s := heffect s s' hs rfl rfl hexec
    have hfrom_u := heffect u u' hu hcfg htransport hexec'
    refine ⟨new, hfrom_s.trace, hfrom_u.trace, hfrom_u.transport.trans hfrom_s.transport.symm,
      hfrom_u.busy.trans hfrom_s.busy.symm, fun hdone hreturns => ?_⟩
    obtain rfl : waits = false := hfrom_s.busy.symm.trans hdone
    obtain ⟨v, rfl⟩ := Option.isSome_iff_exists.1 ((hcompleted rfl).2.trans hreturns)
    exact ⟨hfrom_u.readRes_eq.1.trans hfrom_s.readRes_eq.1.symm, hfrom_s.readRes_eq.2⟩
  · obtain ⟨new, t, waits, r, hcompleted, heffect⟩ := exec_effect_stateless i s.cfg s.transport
    have hfrom_s := heffect s s' hs rfl rfl hexec
    exact ⟨new, hfrom_s.trace, (hcompleted (hfrom_s.busy.symm.trans hdone)).1⟩

/-! ### `RESET` (R135, R136) -/

/-- No operation takes `RESV` back (10_state.md R25). -/
theorem exec_keeps_resv {i : Instr} {s t : State} (h : exec i s = .next t) (hv : s.resv = true) : t.resv = true := by
  rcases exec_result h with ⟨-, _, _, -, hresv⟩ | ⟨-, -, hresv⟩
  · rw [hresv, hv, Bool.true_or]
  · rw [hresv, hv]

/-- Once `RESV` is 1 every step but `RESET` keeps it (R135). -/
theorem step_keeps_resv {s t : State} (h : step s = .next t) (hv : s.resv = true)
    (hreset : s.host.head? ≠ some .reset) : t.resv = true := by
  cases step_shape h with
  | reset rest hh _ => exact absurd (by rw [hh]; rfl) hreset
  | read _ _ _ e => exact e ▸ hv
  | seesIdle _ _ _ e => exact e ▸ hv
  | take _ _ _ _ _ _ e => exact exec_keeps_resv e hv
  | refuse _ _ _ _ _ _ e => exact e ▸ hv
  | resume _ _ _ _ e => exact exec_keeps_resv e hv
  | resumePass _ _ _ _ _ e => exact exec_keeps_resv e hv
  | pass _ _ _ e => exact e ▸ hv
  | idle _ _ e => exact e ▸ hv

/-- Settles O49: the fields are those of `resetBlock`, the word offered next is taken by `step_take`, and no other step
clears the flags (`step_keeps_flags`) or `RESV` (`step_keeps_resv`). -/
theorem resetClearsTheBlock : Obligations.ResetClearsTheBlock := by
  refine ⟨fun s rest hh => ?_, fun s t h hreset =>
    ⟨fun he => step_keeps_flags h he hreset, fun hv => step_keeps_resv h hv hreset⟩⟩
  exact ⟨_, step_reset hh, rfl, rfl, rfl, rfl, rfl, rfl, rfl, rfl, rfl, rfl, rfl,
    fun w rest' i hnext hd => step_take (s := (s.withHost rest).resetBlock) rfl hnext hd⟩

/-- An idle block whose host makes no more moves stays as it is in a run of any length (60_exceptions.md R129). -/
theorem core_run_no_event_idle {s : State} (hb : s.busy = false) (hh : s.host = []) (n : Nat) :
    Sys2Proof.core.run n s = .next s := by
  induction n with
  | zero => rfl
  | succ n ih => rw [core_run_succ n (step_no_event_idle hb hh), ih]

/-- Settles O50: after the step of `RESET` the block is idle and nothing more happens (`core_run_no_event_idle`). -/
theorem resetAbandonsTheOperation : Obligations.ResetAbandonsTheOperation := by
  intro s n _ hh
  have hrun := (core_run_succ n (step_reset hh)).trans (core_run_no_event_idle rfl rfl n)
  refine ⟨_, hrun, rfl, rfl, rfl, ?_⟩
  rw [resetBlock_trace, withHost_sel, withHost_trace]
  split
  · rfl
  · exact (List.append_nil _).symm

/-! ### A call that has not returned (R149) -/

/-- A step whose call has not returned changes the transport alone: the first clause of `MicroStepPerformsItsEntry`, for
a `SEQ` that lies in the script. -/
theorem step_pending {i : Instr} {s : State} {rest : List Answer} {d : Nat} (hb : s.busy = true)
    (hw : s.hostWaits = true) (hd : decode s.cfg.profile s.cmd = .instr i)
    (hseq : s.seq.toNat < (script s.cfg i).length) (ht : s.transport = .oracle (.pending :: rest) d) :
    step s = .next (s.withTransport (.oracle rest d)) :=
  (microStepPerformsItsEntry i s rest d _ hb hw hd (List.getElem?_eq_getElem hseq)).1 ht

/-- Settles O52, by induction on the number of attempts in which the call does not return (`step_pending`). -/
theorem unreturnedCallHangsTheBlock : Obligations.UnreturnedCallHangsTheBlock := by
  intro i s n d rest hb hw hd hseq ht
  induction n generalizing s with
  | zero => exact congrArg (fun t => Host.Outcome.next (s.withTransport t)) ht
  | succ n ih =>
    rw [core_run_succ n (step_pending hb hw hd hseq ht)]
    exact ih (s.withTransport _) hb hw hd hseq rfl

end Sys2Proof.Machine
end
